-- ==== Sys2Proof/Word.lean ====
section
/-! DEFINITION. The word types of the GCM-CORE (spec/00_scope.md R10, R11): a byte, the 128-bit value every
datapath works on, and a finite sequence of bytes. -/

namespace Sys2Proof

/-- A Byte: an integer in 0 .. 255, bit 7 the most significant (R11). -/
abbrev Byte := BitVec 8

/-- A Bits128, the WideInteger value type: bit i has weight 2^i (R10, R100). -/
abbrev Wide := BitVec 128

/-- A U64 operand field: one half of a WideInteger (R71, R103). -/
abbrev Half := BitVec 64

/-- A ByteString: a finite sequence of bytes, byte 0 first (R11). -/
abbrev ByteString := List Byte

end Sys2Proof
end

