-- ==== Sys2Proof/Machine/Bytes.lean ====
section
/-! DEFINITION. Byte strings and the one byte order of the core, big-endian (spec/00_scope.md R11, R12, spec/20_memory.md R52, R53):
every conversion between numbers and bytes anywhere in the model goes through `beBytes` and `beVal`. -/

namespace Sys2Proof

/-- The n-byte big-endian encoding of v mod 256^n: BE16, BE8 and BE4 of R12 for n = 16, 8, 4. -/
def beBytes : Nat → Nat → ByteString
  | 0, _ => []
  | n + 1, v => BitVec.ofNat 8 (v / 256 ^ n) :: beBytes n v

/-- The big-endian value of a byte string, Σ byte(s, i) · 256^(|s| − 1 − i): Val and U64 of R12. -/
def beVal : ByteString → Nat
  | [] => 0
  | b :: s => b.toNat * 256 ^ s.length + beVal s

/-- BE16(v): the 16 bytes of a Bits128, bit 7 of byte 0 being bit 127 (R12). -/
def be16 (v : Wide) : ByteString := beBytes 16 v.toNat

/-- Val(b) of a Block b (R12). -/
def val (b : ByteString) : Wide := BitVec.ofNat 128 (beVal b)

/-- zeros(n): n bytes of value 0 (R11). -/
def zeros (n : Nat) : ByteString := List.replicate n 0

/-- The bytes byte(a, j) xor byte(b, j), position by position (R163). -/
def xorBytes (a b : ByteString) : ByteString := List.zipWith (· ^^^ ·) a b

end Sys2Proof
end

