-- ==== Sys2Proof/Config.lean ====
section
/-! DEFINITION. What an implementation or the outside fixes and the spec leaves open (spec/00_scope.md R9,
spec/92_eei_decisions.md D15 to D17): the parameter MAX_LEN, the parameter CIPHER, and the draw of each cipher request.
Each is an opaque constant without a body: nothing in Lean can evaluate it or prove a value of it. -/

namespace Sys2Proof

/-- What the cipher agent does with one request (R160; 93_implementation_defined.md I6, I8): it answers with the
Block CIPHER gives, it answers with a 32-bit error code (BACKEND_CODE_BITS = 32, D16), or it gives no answer before
the next reset, if ever. -/
inductive Draw where
  | answered
  | failed (code : BitVec 32)
  | silent
  deriving DecidableEq, Repr, Inhabited

/-- Free: fixes MAX_LEN among its legal values. DESIGN CHOICE (log 4), safe: claims hold for every value. -/
opaque Config.maxLenDraw : Nat

/-- MAX_LEN, the largest byte length of a string operand (R9, D17): some value with 32 ≤ MAX_LEN ≤ 2^61 − 1.
Every value of that range is `maxLenDraw % (2^61 − 32) + 32` for some `maxLenDraw` (log 4). -/
def Config.maxLen : Nat := Config.maxLenDraw % (2 ^ 61 - 32) + 32

/-- Free: CIPHER(k, b), the external cipher's result on success, a total function of the key bytes and the block bytes
(R9, R160 part 1, D15). DESIGN CHOICE (log 3), safe: claims hold for every function. -/
opaque Config.cipher : ByteString → ByteString → Wide

/-- Free: the draw of the n-th cipher request of a run, afresh at each request (R160 part 2, D15). DESIGN CHOICE
(log 2), safe: claims hold for every sequence of draws. -/
opaque Config.cipherDraw : Nat → Draw

end Sys2Proof
end

