-- ==== Sys2Proof/Syntax.lean ====
section
/-! DEFINITION. The commands of the GCM-CORE command set, revision 1: one constructor per row of spec/opcode_table.json,
its operands in the order of its format (spec/30_encoding.md R72, R73). -/

namespace Sys2Proof

/-- A decoded command. A BLK operand stands as its value Val(bytes), a STR operand as its bytes (R71). -/
inductive Instr where
  /-- 0x10 WI_FROM_BYTES, format FS (R110). -/
  | wiFromBytes (s : ByteString)
  /-- 0x11 WI_FROM_HALVES, format FHL (R111). -/
  | wiFromHalves (hi lo : Half)
  /-- 0x12 WI_TO_BYTES, format FB (R112). -/
  | wiToBytes (a : Wide)
  /-- 0x13 WI_XOR, format FBB (R113). -/
  | wiXor (a b : Wide)
  /-- 0x14 WI_AND, format FBB (R114). -/
  | wiAnd (a b : Wide)
  /-- 0x15 WI_SHR1, format FB (R115). -/
  | wiShr1 (a : Wide)
  /-- 0x16 WI_INC, format FB (R116). -/
  | wiInc (a : Wide)
  /-- 0x17 WI_EQ, format FBB (R117). -/
  | wiEq (a b : Wide)
  /-- 0x20 GF_MUL, format FBB (R140). -/
  | gfMul (x y : Wide)
  /-- 0x21 GHASH, format FGH (R141). -/
  | ghash (init h : Wide) (aad c : ByteString)
  /-- 0x30 TS_EQUAL, format FSS (R202). -/
  | tsEqual (a b : ByteString)
  /-- 0x40 SESSION_NEW, format FNEW (R165). -/
  | sessionNew (key nonce : ByteString) (tagSize : Byte)
  /-- 0x41 ENCRYPT, format FSS (R166). -/
  | encrypt (aad plaintext : ByteString)
  /-- 0x42 DECRYPT, format FSS (R167). -/
  | decrypt (aad ciphertextWithTag : ByteString)
  /-- 0x43 SESSION_CLEAR, format F0 (R168). -/
  | sessionClear
  deriving DecidableEq, Repr

end Sys2Proof
end

