-- ==== Sys2Proof/WellFormed.lean ====
section
/-! DEFINITION. Which commands a frame can carry: every STR operand is at most MAX_LEN bytes long
(spec/20_memory.md R55, spec/30_encoding.md R74). Every other operand value is legal to encode: a wrong key length or tag
size is a command with an error response, not an ill-formed command (R165). -/

namespace Sys2Proof

/-- A string a STR field may carry (R55): L ≤ MAX_LEN. -/
abbrev StrFits (s : ByteString) : Prop := s.length ≤ Config.maxLen

/-- The commands a frame can carry (R74). -/
def Instr.WellFormed : Instr → Prop
  | .wiFromBytes s => StrFits s
  | .wiFromHalves _ _ => True
  | .wiToBytes _ => True
  | .wiXor _ _ => True
  | .wiAnd _ _ => True
  | .wiShr1 _ => True
  | .wiInc _ => True
  | .wiEq _ _ => True
  | .gfMul _ _ => True
  | .ghash _ _ aad c => StrFits aad ∧ StrFits c
  | .tsEqual a b => StrFits a ∧ StrFits b
  | .sessionNew key nonce _ => StrFits key ∧ StrFits nonce
  | .encrypt aad plaintext => StrFits aad ∧ StrFits plaintext
  | .decrypt aad ciphertextWithTag => StrFits aad ∧ StrFits ciphertextWithTag
  | .sessionClear => True

end Sys2Proof
end

