-- ==== Sys2Proof/Decode.lean ====
section
/-! DEFINITION. Command frames (spec/30_encoding.md R70 to R77): the opcode map, the decoder Decode of R74, total on any byte
string and rejecting by name, and the encoder from the same tables. -/

namespace Sys2Proof

/-- The operand field types of R71. -/
inductive FieldType where
  | blk
  | u64
  | u8
  | str
  deriving DecidableEq, Repr

/-- The value read from one operand field (R71). -/
inductive Operand where
  | blk (v : Wide)
  | u64 (v : Half)
  | u8 (v : Byte)
  | str (s : ByteString)
  deriving DecidableEq, Repr

/-- What Decode answers (R74): a command, or one of the two decode errors. -/
inductive Decoded where
  | command (i : Instr)
  | illegalCommand
  | malformedCommand
  deriving DecidableEq, Repr

/-- The field type a value belongs to (R71). -/
def Operand.type : Operand → FieldType
  | .blk _ => .blk
  | .u64 _ => .u64
  | .u8 _ => .u8
  | .str _ => .str

/-- The command formats of R72. -/
def formatF0 : List FieldType := []
def formatFS : List FieldType := [.str]
def formatFHL : List FieldType := [.u64, .u64]
def formatFB : List FieldType := [.blk]
def formatFBB : List FieldType := [.blk, .blk]
def formatFGH : List FieldType := [.blk, .blk, .str, .str]
def formatFSS : List FieldType := [.str, .str]
def formatFNEW : List FieldType := [.str, .str, .u8]

/-- The opcode map of R73: opcode byte and format, selected by all 8 bits. -/
def opcodeMap : List (Byte × List FieldType) :=
  [ (0x10, formatFS), (0x11, formatFHL), (0x12, formatFB), (0x13, formatFBB), (0x14, formatFBB),
    (0x15, formatFB), (0x16, formatFB), (0x17, formatFBB), (0x20, formatFBB), (0x21, formatFGH),
    (0x30, formatFSS), (0x40, formatFNEW), (0x41, formatFSS), (0x42, formatFSS), (0x43, formatF0) ]

/-- Format(op), or none where the opcode is outside the map and so illegal (R73, R76). -/
def formatOf (op : Byte) : Option (List FieldType) := opcodeMap.lookup op

/-- One round of R74's loop: the value of a field at the front of f and what follows it, or none where f is too short
or a STR is longer than MAX_LEN. -/
def readField (t : FieldType) (f : ByteString) : Option (Operand × ByteString) :=
  match t with
  | .blk => if f.length < 16 then none else some (.blk (val (f.take 16)), f.drop 16)
  | .u64 => if f.length < 8 then none else some (.u64 (BitVec.ofNat 64 (beVal (f.take 8))), f.drop 8)
  | .u8 =>
    match f with
    | [] => none
    | b :: rest => some (.u8 b, rest)
  | .str =>
    if f.length < 8 then none
    else if beVal (f.take 8) ≤ Config.maxLen then
      if (f.drop 8).length < beVal (f.take 8) then none
      else some (.str ((f.drop 8).take (beVal (f.take 8))), (f.drop 8).drop (beVal (f.take 8)))
    else none

/-- R74's loop over the fields of a format. -/
def readFields : List FieldType → ByteString → Option (List Operand × ByteString)
  | [], f => some ([], f)
  | t :: ts, f =>
    match readField t f with
    | none => none
    | some (v, rest) =>
      match readFields ts rest with
      | none => none
      | some (vs, tail) => some (v :: vs, tail)

/-- The command an opcode and its operand values stand for (R72, R73, R77). -/
def assemble (op : Byte) (vs : List Operand) : Option Instr :=
  match vs with
  | [] => if op = 0x43 then some .sessionClear else none
  | [.str s] => if op = 0x10 then some (.wiFromBytes s) else none
  | [.u64 hi, .u64 lo] => if op = 0x11 then some (.wiFromHalves hi lo) else none
  | [.blk a] =>
    if op = 0x12 then some (.wiToBytes a)
    else if op = 0x15 then some (.wiShr1 a)
    else if op = 0x16 then some (.wiInc a)
    else none
  | [.blk a, .blk b] =>
    if op = 0x13 then some (.wiXor a b)
    else if op = 0x14 then some (.wiAnd a b)
    else if op = 0x17 then some (.wiEq a b)
    else if op = 0x20 then some (.gfMul a b)
    else none
  | [.blk init, .blk h, .str aad, .str c] => if op = 0x21 then some (.ghash init h aad c) else none
  | [.str a, .str b] =>
    if op = 0x30 then some (.tsEqual a b)
    else if op = 0x41 then some (.encrypt a b)
    else if op = 0x42 then some (.decrypt a b)
    else none
  | [.str key, .str nonce, .u8 tagSize] => if op = 0x40 then some (.sessionNew key nonce tagSize) else none
  | _ => none

/-- Decode(f) of R74. The opcode is checked before any field, so IllegalCommand comes before MalformedCommand for a
frame that is both (R213); a frame with bytes left over is malformed. -/
def decode (f : ByteString) : Decoded :=
  match f with
  | [] => .malformedCommand
  | op :: rest =>
    match formatOf op with
    | none => .illegalCommand
    | some fields =>
      match readFields fields rest with
      | some (vs, []) =>
        match assemble op vs with
        | some i => .command i
        | none => .malformedCommand
      | _ => .malformedCommand

/-- The OPCODE of a command (R73). -/
def opcodeOf : Instr → Byte
  | .wiFromBytes _ => 0x10
  | .wiFromHalves _ _ => 0x11
  | .wiToBytes _ => 0x12
  | .wiXor _ _ => 0x13
  | .wiAnd _ _ => 0x14
  | .wiShr1 _ => 0x15
  | .wiInc _ => 0x16
  | .wiEq _ _ => 0x17
  | .gfMul _ _ => 0x20
  | .ghash _ _ _ _ => 0x21
  | .tsEqual _ _ => 0x30
  | .sessionNew _ _ _ => 0x40
  | .encrypt _ _ => 0x41
  | .decrypt _ _ => 0x42
  | .sessionClear => 0x43

/-- The operand fields of a command, in the order of its format (R72). -/
def operandsOf : Instr → List Operand
  | .wiFromBytes s => [.str s]
  | .wiFromHalves hi lo => [.u64 hi, .u64 lo]
  | .wiToBytes a => [.blk a]
  | .wiXor a b => [.blk a, .blk b]
  | .wiAnd a b => [.blk a, .blk b]
  | .wiShr1 a => [.blk a]
  | .wiInc a => [.blk a]
  | .wiEq a b => [.blk a, .blk b]
  | .gfMul x y => [.blk x, .blk y]
  | .ghash init h aad c => [.blk init, .blk h, .str aad, .str c]
  | .tsEqual a b => [.str a, .str b]
  | .sessionNew key nonce tagSize => [.str key, .str nonce, .u8 tagSize]
  | .encrypt aad plaintext => [.str aad, .str plaintext]
  | .decrypt aad ciphertextWithTag => [.str aad, .str ciphertextWithTag]
  | .sessionClear => []

/-- The bytes of one operand field (R71). -/
def Operand.bytes : Operand → ByteString
  | .blk v => be16 v
  | .u64 v => beBytes 8 v.toNat
  | .u8 v => [v]
  | .str s => beBytes 8 s.length ++ s

/-- The bytes of the operand fields, one after the other with no gaps (R70). -/
def operandBytes (vs : List Operand) : ByteString := vs.flatMap Operand.bytes

/-- The command frame of a command (R70). -/
def encode (i : Instr) : ByteString := opcodeOf i :: operandBytes (operandsOf i)

/-- The fewest bytes a field can have: a STR of length 0 has its 8 length bytes (R71). -/
def FieldType.leastBytes : FieldType → Nat
  | .blk => 16
  | .u64 => 8
  | .u8 => 1
  | .str => 8

/-- The first n bytes of an instruction numbered as spec/opcode_table.json numbers its bits: byte j is bits
8j+7 .. 8j of w. -/
def tableBytes : Nat → Nat → ByteString
  | 0, _ => []
  | n + 1, w => BitVec.ofNat 8 w :: tableBytes n (w / 256)

/-- The frame of a table word: its nbits/8 bytes, then the zero bytes its format still needs. The table gives every row
its opcode byte alone, so this is the opcode with every operand zero and every STR empty (log 13). -/
def tableFrame (nbits w : Nat) : ByteString :=
  let given := tableBytes (nbits / 8) w
  match given with
  | [] => []
  | op :: rest =>
    match formatOf op with
    | none => given
    | some fields => given ++ zeros ((fields.map FieldType.leastBytes).sum - rest.length)

/-- The instruction the decoder reads from a table word (host interface). -/
def decodeTableWord (nbits w : Nat) : Option Instr :=
  match decode (tableFrame nbits w) with
  | .command i => some i
  | .illegalCommand => none
  | .malformedCommand => none

end Sys2Proof
end

