-- ==== Sys2Proof/Machine/State.lean ====
section
/-! DEFINITION. The state of the GCM-CORE as plain data (spec/10_state.md R23, R33, R36), what the outside does to it, the observation
of a run (spec/70_reset_and_hazards.md R251), and the reasons a step can stop. -/

namespace Sys2Proof.Machine

/-- The session slot: the only architectural registers (R21, R23). -/
structure Slot where
  /-- VALID, 1 bit: the slot holds a session (R24). -/
  valid : Bool
  /-- USED, 1 bit: the one-shot flag (R25). -/
  used : Bool
  /-- KEYLEN, 6 bits: 0, 16, 24 or 32 (R26). -/
  keylen : BitVec 6
  /-- KEY, 32 bytes, byte 0 most significant; the bytes from KEYLEN on are 0 (R26). -/
  key : BitVec 256
  /-- TAGSIZE, 5 bits: 0 or the tag length in bytes (R27). -/
  tagsize : BitVec 5
  /-- HSUB, the hash subkey (R28). -/
  hsub : Wide
  /-- J0, the initial counter block (R29). -/
  j0 : Wide
  /-- CTR, the running counter block (R30). -/
  ctr : Wide
  deriving DecidableEq, Repr

/-- One request (k, b) to the cipher agent (R160). -/
structure Request where
  key : ByteString
  block : ByteString
  deriving DecidableEq, Repr

/-- One point of the parameter CIPHER that a run fixes (R9; log 3). -/
structure CipherPoint where
  key : ByteString
  block : ByteString
  out : Wide
  deriving DecidableEq, Repr

/-- An answer of the cipher agent (R160). -/
inductive Answer where
  | ok (out : Wide)
  | err (code : BitVec 32)
  deriving DecidableEq, Repr

/-- What the core is doing between two steps (R33, R241, R242): idle; busy with a command whose cipher request is
outstanding; or in reset until T_RESET has passed. -/
inductive Phase where
  | idle
  | waiting (request : Request)
  | resetting
  deriving DecidableEq, Repr

/-- What the outside does to the core (R249, R240): the host sends a frame or issues a reset, T_RESET passes after a
reset (R242), the cipher agent answers a request that a reset abandoned (R240). -/
inductive Input where
  | frame (f : ByteString)
  | reset
  | resetDone
  | lateAnswer (a : Answer)
  deriving DecidableEq, Repr

/-- The whole machine. `slot` and `phase` are the core's own state. `inputs`, `draws` and `points` are the outside: what
it will do, how it will answer, and the points of CIPHER a run fixes (log 1, 2, 3). `requests` and `responses` are the
observation of the run so far, oldest first (R251; log 7). -/
structure State where
  slot : Slot
  phase : Phase
  inputs : List Input
  draws : List Draw
  points : List CipherPoint
  requests : List Request
  responses : List ByteString
  deriving DecidableEq, Repr

/-- Why the model has gone wrong; no state the core can reach raises one. -/
inductive Fault where
  /-- Raised by `callE` for a cipher request whose block is not 16 bytes: SWGCM's InvalidBlockSize, "a fault, never a
  response" (R212, D36). Safe: it refutes, and it can hide nothing. -/
  | invalidBlockSize
  /-- Raised by `callE` for a cipher request whose key is not 16, 24 or 32 bytes: outside the contract of CALL_E (R160,
  R161); only a state that breaks the KEYLEN invariant of R35 gets here. Safe (log 9). -/
  | invalidCipherKey
  deriving DecidableEq, Repr

/-- Why a step has no meaning. -/
inductive Refusal where
  /-- Raised by `exec` for a command without a meaning; every command has one, so no arm raises it. Safe. -/
  | notModelled (mnemonic : String)
  /-- Raised by `step` for a frame sent while the core is busy: it "has no meaning: a model gives such a host action no
  step and refuses the run" (R243, R222). Unsafe: a host that sends while busy is outside every claim (D2; log 8). -/
  | frameWhileBusy
  /-- Raised by `step` for a frame sent before T_RESET has passed (R242; 93_implementation_defined.md I24). Unsafe, for
  the same reason (log 8). -/
  | frameBeforeResetDone
  deriving DecidableEq, Repr

/-- The slot of the EMPTY state: every session register 0 (R34, R36, R168). -/
def Slot.empty : Slot :=
  { valid := false, used := false, keylen := 0, key := 0, tagsize := 0, hsub := 0, j0 := 0, ctr := 0 }

/-- The machine right after reset (R36, R241): every session register 0, idle, no request outstanding. Nothing has been
observed, and the outside is as free as it can be: no action is placed, no draw and no point of CIPHER is fixed
(DESIGN CHOICE: log 1, 2, 3, 7). -/
def State.reset : State :=
  { slot := Slot.empty, phase := .idle, inputs := [], draws := [], points := [], requests := [], responses := [] }

end Sys2Proof.Machine
end

