-- ==== Sys2Proof/Machine/Operands.lean ====
section
/-! DEFINITION. The operand and result forms of commands: the legal key lengths and tag sizes (spec/00_scope.md R8), the KEY register's
views (spec/10_state.md R26), the errors and their status codes, and response frames (spec/30_encoding.md R78 to R80). -/

namespace Sys2Proof.Machine

/-- KEY_LENGTHS, in bytes (R8). -/
def keyLengths : List Nat := [16, 24, 32]

/-- TAG_SIZES, in bytes: the seven values, 13 among them (R8; 90_conflicts.md C1). -/
def tagSizes : List Nat := [4, 8, 12, 13, 14, 15, 16]

/-- The KEY register holding key operand k: bytes 0 .. |k| − 1 are k, the others 0 (R26, R165). -/
def keyRegister (k : ByteString) : BitVec 256 := BitVec.ofNat 256 (beVal (k ++ zeros (32 - k.length)))

/-- take(KEY, KEYLEN): the key every session request uses (R26). -/
def Slot.sessionKey (c : Slot) : ByteString := (beBytes 32 c.key.toNat).take c.keylen.toNat

/-- The errors of R211. -/
inductive CommandError where
  | invalidKeySize
  | invalidTagSize
  /-- Assigned in R79 and never raised (R212). -/
  | invalidBlockSize
  | sessionAlreadyUsed
  | backendError (code : BitVec 32)
  | authenticationFailure
  | noSession
  | illegalCommand
  | malformedCommand
  deriving DecidableEq, Repr

/-- The STATUS byte of an error (R79, R211). -/
def CommandError.status : CommandError → Byte
  | .invalidKeySize => 0x01
  | .invalidTagSize => 0x02
  | .invalidBlockSize => 0x03
  | .sessionAlreadyUsed => 0x04
  | .backendError _ => 0x05
  | .authenticationFailure => 0x06
  | .noSession => 0x07
  | .illegalCommand => 0x08
  | .malformedCommand => 0x09

/-- What an error records beside its STATUS: the 32-bit code of BackendError, unchanged, else nothing (R80, R211). -/
def CommandError.info : CommandError → ByteString
  | .backendError code => beBytes 4 code.toNat
  | .invalidKeySize => []
  | .invalidTagSize => []
  | .invalidBlockSize => []
  | .sessionAlreadyUsed => []
  | .authenticationFailure => []
  | .noSession => []
  | .illegalCommand => []
  | .malformedCommand => []

/-- An error response: STATUS, then the recorded info; no part of a result (R80). -/
def errorResponse (e : CommandError) : ByteString := e.status :: e.info

/-- The result types of R78. -/
inductive Payload where
  | none
  | blk (v : Wide)
  | bool (b : Bool)
  | str (s : ByteString)
  deriving DecidableEq, Repr

/-- The payload bytes of a result (R78). -/
def Payload.bytes : Payload → ByteString
  | .none => []
  | .blk v => be16 v
  | .bool b => [if b then 0x01 else 0x00]
  | .str s => beBytes 8 s.length ++ s

/-- An OK response: STATUS 0x00, then the payload (R78). -/
def okResponse (p : Payload) : ByteString := 0x00 :: p.bytes

end Sys2Proof.Machine
end

