-- ==== Sys2Proof/Machine/Ops.lean ====
section
/-! DEFINITION. The operations every command shares: `respond`, the cipher call CALL_E (spec/42_gcm_engine.md R160), the abort of a command
by an error (spec/60_exceptions.md R214), and the effect of reset (spec/70_reset_and_hazards.md R240). -/

namespace Sys2Proof.Machine

/-- The outcome of one step of this machine. -/
abbrev Result := Host.Outcome State Fault Refusal

/-- A part of a command that may make cipher requests: it is done with a value, or it raised an error (R13), or it waits
for an answer that does not come (R160 part 3), or the model is broken (R212). Each carries the state as it stands
there: register writes made before that point remain (R214). -/
inductive Call (α : Type) where
  | done (a : α) (s : State)
  | raised (e : CommandError) (s : State)
  | waits (s : State)
  | broken (r : Fault)
  deriving DecidableEq, Repr

/-- One part after another: the second runs only where the first is done. -/
def Call.bind {α β : Type} (c : Call α) (f : α → State → Call β) : Call β :=
  match c with
  | .done a s => f a s
  | .raised e s => .raised e s
  | .waits s => .waits s
  | .broken r => .broken r

/-- The core produces one response frame (R70, R215). -/
def State.respond (s : State) (r : ByteString) : State := { s with responses := s.responses ++ [r] }

/-- `respond(OK, payload)` (R13): the command ends successfully. -/
def respondOk (p : Payload) (s : State) : Result := .next (s.respond (okResponse p))

/-- `raise E(info)` (R13, R214): the command ends with E's response and nothing else; what it wrote to registers before
remains. The core is then idle (R215). There is no handler and no return (R210). -/
def abort (e : CommandError) (s : State) : Result := .next (s.respond (errorResponse e))

/-- The end of a command: its one response, or the wait for the cipher agent with no response yet (R249). -/
def Call.finish (c : Call Payload) : Result :=
  match c with
  | .done p s => respondOk p s
  | .raised e s => abort e s
  | .waits s => .next s
  | .broken r => .fault r

/-- CIPHER(k, b): a point the run fixes, else the free parameter (R9, R160 part 1; log 3). No step changes `points`, so
equal requests get equal answers within a session and across sessions. -/
def State.cipher (s : State) (k b : ByteString) : Wide :=
  match s.points.find? (fun p => p.key = k ∧ p.block = b) with
  | some p => p.out
  | none => Config.cipher k b

/-- The draw of the i-th coming cipher request, i = 0 the next: the list's, else a fresh free value (R160 part 2;
log 2). -/
def State.drawAt (s : State) (i : Nat) : Draw :=
  match s.draws[i]? with
  | some d => d
  | none => Config.cipherDraw (s.requests.length + i)

/-- The core issues the request (k, b): the cipher agent has seen it, whatever follows (R169, R214). -/
def State.issue (s : State) (k b : ByteString) : State :=
  { s with requests := s.requests ++ [{ key := k, block := b }], draws := s.draws.drop 1 }

/-- The core waits for the answer to (k, b), the request outstanding (R33, R160 part 3). -/
def State.await (s : State) (k b : ByteString) : State := { s with phase := .waiting { key := k, block := b } }

/-- CALL_E(k, b) (R160): one request and its answer. A block that is not 16 bytes is the fault of R212, a key of no legal
length breaks the contract (log 9). -/
def callE (k b : ByteString) (s : State) : Call Wide :=
  if b.length ≠ 16 then .broken .invalidBlockSize
  else if k.length ∉ keyLengths then .broken .invalidCipherKey
  else
    match s.drawAt 0 with
    | .answered => .done (s.cipher k b) (s.issue k b)
    | .failed code => .raised (.backendError code) (s.issue k b)
    | .silent => .waits ((s.issue k b).await k b)

/-- Every session register becomes 0: the scrub of SESSION_NEW and SESSION_CLEAR (R165, R168) and of reset (R240). -/
def State.scrub (s : State) : State := { s with slot := Slot.empty }

/-- Reset (R240): every register of R36, and a command in progress and its request are abandoned with no response. What
has been observed stays observed (R251), and the outside stays as it is. -/
def State.applyReset (s : State) : State := { s.scrub with phase := .resetting }

end Sys2Proof.Machine
end

