-- ==== Sys2Proof/Machine/Compare.lean ====
section
/-! DEFINITION. The constant-time comparator (spec/43_compare.md R200 to R202) and the datapath command TS_EQUAL. -/

namespace Sys2Proof.Machine

/-- The 8-bit accumulator of R200 over every position, no early exit. -/
def orOfXors : Byte → ByteString → ByteString → Byte
  | acc, x :: a, y :: b => orOfXors (acc ||| (x ^^^ y)) a b
  | acc, _, _ => acc

/-- TimingSafeEqual(a, b) (R200). -/
def timingSafeEqual (a b : ByteString) : Bool :=
  if a.length ≠ b.length then false else decide (orOfXors 0 a b = 0)

/-- TS_EQUAL (R202). -/
def execTsEqual (a b : ByteString) (s : State) : Result := respondOk (.bool (timingSafeEqual a b)) s

end Sys2Proof.Machine
end

