-- ==== Sys2Proof/Machine/WideInteger.lean ====
section
/-! DEFINITION. The WideInteger 128-bit datapath (spec/40_wideinteger.md R100 to R118): its functions, which the other families use, and
the eight WI_* commands. Every one is a datapath command (R109): it reads and writes no register and makes no request. -/

namespace Sys2Proof.Machine

/-- hi64(w) = w[127:64] (R10). -/
def hi64 (w : Wide) : Half := w.extractLsb' 64 64

/-- lo64(w) = w[63:0] (R10). -/
def lo64 (w : Wide) : Half := w.extractLsb' 0 64

/-- FromBytes(s) (R101): the first 16 bytes, zero-extended on the left; positions 16 onwards are ignored (D18). -/
def fromBytes (s : ByteString) : Wide := val (s.take 16)

/-- ToBytes(w) = BE16(w) (R102). -/
def toBytes (w : Wide) : ByteString := be16 w

/-- FromHalves(hi, lo) = hi · 2^64 + lo (R103). -/
def fromHalves (hi lo : Half) : Wide := hi ++ lo

/-- Xor(a, b), over all 128 bits (R104). -/
def wideXor (a b : Wide) : Wide := a ^^^ b

/-- And(a, b), over all 128 bits (R105). -/
def wideAnd (a b : Wide) : Wide := a &&& b

/-- Shr1(a) (R106): a logical shift of each half, the low bit of the high half carried into the top bit of the low. -/
def shr1 (a : Wide) : Wide :=
  fromHalves (hi64 a >>> 1) ((lo64 a >>> 1) ||| ((hi64 a &&& 1) <<< 63))

/-- Inc(a) (R107): the low half wraps with a carry into the high half. -/
def inc (a : Wide) : Wide :=
  fromHalves (hi64 a + (if lo64 a = BitVec.allOnes 64 then 1 else 0)) (lo64 a + 1)

/-- Eq(a, b) (R108): equal in all 128 bits. -/
def wideEq (a b : Wide) : Bool := decide (a = b)

/-- WI_FROM_BYTES (R110). -/
def execWiFromBytes (b : ByteString) (s : State) : Result := respondOk (.blk (fromBytes b)) s

/-- WI_FROM_HALVES (R111). -/
def execWiFromHalves (hi lo : Half) (s : State) : Result := respondOk (.blk (fromHalves hi lo)) s

/-- WI_TO_BYTES (R112). -/
def execWiToBytes (a : Wide) (s : State) : Result := respondOk (.str (toBytes a)) s

/-- WI_XOR (R113). -/
def execWiXor (a b : Wide) (s : State) : Result := respondOk (.blk (wideXor a b)) s

/-- WI_AND (R114). -/
def execWiAnd (a b : Wide) (s : State) : Result := respondOk (.blk (wideAnd a b)) s

/-- WI_SHR1 (R115). The bit shifted out is not reported. -/
def execWiShr1 (a : Wide) (s : State) : Result := respondOk (.blk (shr1 a)) s

/-- WI_INC (R116). Wrap-around is not reported. -/
def execWiInc (a : Wide) (s : State) : Result := respondOk (.blk (inc a)) s

/-- WI_EQ (R117). -/
def execWiEq (a b : Wide) (s : State) : Result := respondOk (.bool (wideEq a b)) s

end Sys2Proof.Machine
end

