-- ==== Sys2Proof/Machine/Field.lean ====
section
/-! DEFINITION. Padding, the GF(2^128) multiplier and the GHASH accumulator (spec/41_field.md R130 to R141), with the datapath commands
GF_MUL and GHASH. -/

namespace Sys2Proof.Machine

/-- The first n blocks of 16 bytes of a padded string, in order (R130). -/
def blocks16 : Nat → ByteString → List ByteString
  | 0, _ => []
  | n + 1, p => p.take 16 :: blocks16 n (p.drop 16)

/-- s with zeros on the right up to a multiple of 16 bytes; the empty string becomes one zero block (R130). -/
def padded (s : ByteString) : ByteString :=
  if s.length = 0 then zeros 16 else s ++ zeros ((16 - s.length % 16) % 16)

/-- Pad16(s) (R130): max(1, ceil(|s| / 16)) blocks. The one padding used everywhere, for the keystream too (D13). -/
def pad16 (s : ByteString) : List ByteString := blocks16 ((padded s).length / 16) (padded s)

/-- LenBlock(a, c) = (8·|a|) · 2^64 + 8·|c|, of the unpadded lengths (R131, R132). -/
def lenBlock (a c : ByteString) : Wide := BitVec.ofNat 128 (8 * a.length * 2 ^ 64 + 8 * c.length)

/-- The reduction constant R = 0xE1 · 2^120 (R133). -/
def reduction : Wide := 0xE1000000000000000000000000000000

/-- The update of v in one iteration of R134: shift right by one, xor R in if the bit shifted out was 1. -/
def gfShift (v : Wide) : Wide := if v.getLsbD 0 then wideXor (shr1 v) reduction else shr1 v

/-- The iterations of R134 that test bits n − 1 down to 0 of y: iteration i of the rule is the one that tests bit 127 − i. -/
def gfLoop (y : Wide) : Nat → Wide → Wide → Wide
  | 0, z, _ => z
  | n + 1, z, v => gfLoop y n (if y.getLsbD n then wideXor z v else z) (gfShift v)

/-- GFMul(x, y) (R134): always the full 128 iterations (R135). -/
def gfMul (x y : Wide) : Wide := gfLoop y 128 0 x

/-- One fold of GHASH (R137). -/
def fold (h acc b : Wide) : Wide := gfMul (wideXor acc b) h

/-- The folds of the blocks of Pad16(s), in order (R137, steps 1 and 2). -/
def foldBlocks (h : Wide) : Wide → List ByteString → Wide
  | acc, [] => acc
  | acc, b :: bs => foldBlocks h (fold h acc (val b)) bs

/-- GHASH(init, H, a, c) (R137). -/
def ghash (init h : Wide) (a c : ByteString) : Wide :=
  fold h (foldBlocks h (foldBlocks h init (pad16 a)) (pad16 c)) (lenBlock a c)

/-- GF_MUL (R140). -/
def execGfMul (x y : Wide) (s : State) : Result := respondOk (.blk (gfMul x y)) s

/-- GHASH (R141). -/
def execGhash (init h : Wide) (aad c : ByteString) (s : State) : Result := respondOk (.blk (ghash init h aad c)) s

end Sys2Proof.Machine
end

