-- ==== Sys2Proof/Machine/Flags.lean ====
section
/-! DEFINITION. The two flags VALID and USED (spec/10_state.md R24, R25, R31): the session states they name (R34), the checks ENCRYPT and
DECRYPT make of them and the write that spends the session. No other flag exists, and no datapath command writes one. -/

namespace Sys2Proof.Machine

/-- The session states of R34. VALID = 0 with USED = 1 "never occurs"; the model names it so that the function is total. -/
inductive SessionState where
  | empty
  | ready
  | spent
  | impossible
  deriving DecidableEq, Repr

/-- The state named by VALID and USED (R34). -/
def Slot.sessionState (c : Slot) : SessionState :=
  match c.valid, c.used with
  | false, false => .empty
  | true, false => .ready
  | true, true => .spent
  | false, true => .impossible

/-- The first two lines of ENCRYPT and DECRYPT: NoSession, then SessionAlreadyUsed (R166, R167, R213). -/
def Slot.refusesUse (c : Slot) : Option CommandError :=
  if c.valid = false then some .noSession
  else if c.used = true then some .sessionAlreadyUsed
  else none

/-- USED <- 1, on entry, before any cipher request (R25, D8). -/
def State.spend (s : State) : State := { s with slot := { s.slot with used := true } }

end Sys2Proof.Machine
end

