-- ==== Sys2Proof/Machine/Engine.lean ====
section
/-! DEFINITION. The GCM engine (spec/42_gcm_engine.md R160 to R176): J0 derivation, the counter-mode keystream, the tag, and the four
session commands SESSION_NEW, ENCRYPT, DECRYPT and SESSION_CLEAR. -/

namespace Sys2Proof.Machine

/-- DeriveJ0(H, nonce) (R162): the standard path for 12 bytes, GHASH for every other length, 0 included (D19). -/
def deriveJ0 (h : Wide) (nonce : ByteString) : Wide :=
  if nonce.length = 12 then val (nonce ++ [0x00, 0x00, 0x00, 0x01]) else ghash 0 h [] nonce

/-- CTR <- Inc(CTR) (R163), over the full 128 bits (R173, D20). -/
def State.advanceCtr (s : State) : State := { s with slot := { s.slot with ctr := inc s.slot.ctr } }

/-- The loop of Keystream (R163): for each block, first the increment, then the request, then the xor. -/
def keystreamBlocks (k : ByteString) : List ByteString → State → Call ByteString
  | [], s => .done [] s
  | b :: bs, s =>
    (callE k (be16 s.advanceCtr.slot.ctr) s.advanceCtr).bind fun out s1 =>
      (keystreamBlocks k bs s1).bind fun rest s2 => .done (xorBytes b (be16 out) ++ rest) s2

/-- Keystream(k, d) (R163): the padded blocks' results, truncated to |d| bytes. -/
def keystream (k d : ByteString) (s : State) : Call ByteString :=
  (keystreamBlocks k (pad16 d) s).bind fun out s1 => .done (out.take d.length) s1

/-- TagOf(S, M, t) (R164): the leading t bytes of S xor M. -/
def tagOf (x m : Wide) (t : Nat) : ByteString := (be16 (wideXor x m)).take t

/-- The two requests ENCRYPT and DECRYPT make first, H' and then the tag mask M (R166, R167, R169, D14). -/
def hashKeyAndMask (k : ByteString) (s : State) : Call (Wide × Wide) :=
  (callE k (zeros 16) s).bind fun h s1 =>
    (callE k (be16 s1.slot.j0) s1).bind fun m s2 => .done (h, m) s2

/-- KEY, KEYLEN, TAGSIZE and HSUB written once the H request is answered (R165). -/
def State.loadKey (s : State) (key : ByteString) (tagSize : Byte) (h : Wide) : State :=
  { s with slot := { s.slot with
      key := keyRegister key, keylen := BitVec.ofNat 6 key.length, tagsize := tagSize.setWidth 5, hsub := h } }

/-- J0, then CTR <- J0, then VALID <- 1 (R165). -/
def State.openSession (s : State) (nonce : ByteString) : State :=
  { s with slot := { s.slot with
      j0 := deriveJ0 s.slot.hsub nonce, ctr := deriveJ0 s.slot.hsub nonce, valid := true } }

/-- The body of SESSION_NEW after the scrub on entry (R165): the tag size, then the key length, then the one request. -/
def sessionNewBody (key nonce : ByteString) (tagSize : Byte) (s : State) : Call Payload :=
  if tagSize.toNat ∉ tagSizes then .raised .invalidTagSize s
  else if key.length ∉ keyLengths then .raised .invalidKeySize s
  else
    (callE key (zeros 16) s).bind fun h s1 =>
      .done .none ((s1.loadKey key tagSize h).openSession nonce)

/-- The body of ENCRYPT after its two checks and USED <- 1 (R166). -/
def encryptBody (aad pt : ByteString) (s : State) : Call Payload :=
  (hashKeyAndMask s.slot.sessionKey s).bind fun hm s1 =>
    (keystream s.slot.sessionKey pt s1).bind fun c s2 =>
      .done (.str (c ++ tagOf (ghash 0 hm.1 aad c) hm.2 s2.slot.tagsize.toNat)) s2

/-- The last part of DECRYPT (R167): no plaintext is made before the tag has been found equal (R175). -/
def openText (k aad ct givenTag : ByteString) (h m : Wide) (s : State) : Call Payload :=
  if timingSafeEqual (tagOf (ghash 0 h aad ct) m s.slot.tagsize.toNat) (givenTag.take s.slot.tagsize.toNat) then
    (keystream k ct s).bind fun p s1 => .done (.str p) s1
  else .raised .authenticationFailure s

/-- The body of DECRYPT after its two checks and USED <- 1 (R167): the split is at |x| − 16, whatever TAGSIZE is
(R172, D11); an input shorter than 16 bytes fails before any request (D12). -/
def decryptBody (aad x : ByteString) (s : State) : Call Payload :=
  if x.length < 16 then .raised .authenticationFailure s
  else
    (hashKeyAndMask s.slot.sessionKey s).bind fun hm s1 =>
      openText s.slot.sessionKey aad (x.take (x.length - 16)) (x.drop (x.length - 16)) hm.1 hm.2 s1

/-- SESSION_NEW (R165). -/
def execSessionNew (key nonce : ByteString) (tagSize : Byte) (s : State) : Result :=
  (sessionNewBody key nonce tagSize s.scrub).finish

/-- ENCRYPT (R166). -/
def execEncrypt (aad pt : ByteString) (s : State) : Result :=
  match s.slot.refusesUse with
  | some e => abort e s
  | none => (encryptBody aad pt s.spend).finish

/-- DECRYPT (R167). -/
def execDecrypt (aad x : ByteString) (s : State) : Result :=
  match s.slot.refusesUse with
  | some e => abort e s
  | none => (decryptBody aad x s.spend).finish

/-- SESSION_CLEAR (R168). -/
def execSessionClear (s : State) : Result := respondOk .none s.scrub

end Sys2Proof.Machine
end

