-- ==== Sys2Proof/Machine/Dispatch.lean ====
section
/-! DEFINITION. What each command does, one arm per constructor of Instr (spec/30_encoding.md R73). -/

namespace Sys2Proof.Machine

def exec (i : Instr) (s : State) : Host.Outcome State Fault Refusal :=
  match i with
  | .wiFromBytes b => Sys2Proof.Machine.execWiFromBytes b s
  | .wiFromHalves hi lo => Sys2Proof.Machine.execWiFromHalves hi lo s
  | .wiToBytes a => Sys2Proof.Machine.execWiToBytes a s
  | .wiXor a b => Sys2Proof.Machine.execWiXor a b s
  | .wiAnd a b => Sys2Proof.Machine.execWiAnd a b s
  | .wiShr1 a => Sys2Proof.Machine.execWiShr1 a s
  | .wiInc a => Sys2Proof.Machine.execWiInc a s
  | .wiEq a b => Sys2Proof.Machine.execWiEq a b s
  | .gfMul x y => Sys2Proof.Machine.execGfMul x y s
  | .ghash init h aad c => Sys2Proof.Machine.execGhash init h aad c s
  | .tsEqual a b => Sys2Proof.Machine.execTsEqual a b s
  | .sessionNew key nonce tagSize => Sys2Proof.Machine.execSessionNew key nonce tagSize s
  | .encrypt aad pt => Sys2Proof.Machine.execEncrypt aad pt s
  | .decrypt aad x => Sys2Proof.Machine.execDecrypt aad x s
  | .sessionClear => Sys2Proof.Machine.execSessionClear s

end Sys2Proof.Machine
end

