-- ==== Sys2Proof/Machine/Receive.lean ====
section
/-! DEFINITION. What the core does with one input (spec/70_reset_and_hazards.md R240 to R243, R249): a frame is decoded and run, a reset
resets, an answer that comes too late is ignored. -/

namespace Sys2Proof.Machine

/-- A frame accepted by the idle core (R74): it is decoded before any state is touched; a decode error is a response and
changes nothing else (R214), a command runs. -/
def acceptFrame (f : ByteString) (s : State) : Result :=
  match decode f with
  | .command i => exec i s
  | .illegalCommand => abort .illegalCommand s
  | .malformedCommand => abort .malformedCommand s

/-- A frame sent by the host. While the core is busy, or before a reset has completed, it has no move (R243, I24). -/
def receiveFrame (f : ByteString) (s : State) : Result :=
  match s.phase with
  | .idle => acceptFrame f s
  | .waiting _ => .refused .frameWhileBusy
  | .resetting => .refused .frameBeforeResetDone

/-- T_RESET has passed since a reset: the core is idle and the first frame may be sent (R241, R242). At any other time
nothing happens. -/
def resetDone (s : State) : Result :=
  match s.phase with
  | .resetting => .next { s with phase := .idle }
  | .idle => .next s
  | .waiting _ => .next s

/-- One input of the outside (R249). -/
def receive (a : Input) (s : State) : Result :=
  match a with
  | .frame f => receiveFrame f s
  | .reset => .next s.applyReset
  | .resetDone => resetDone s
  | .lateAnswer _ => .next s

/-- The bytes of a table word placed as the host's next frame, the core idle to take it (log 13). -/
def placeFrame (s : State) (f : ByteString) : State := { s with phase := .idle, inputs := .frame f :: s.inputs }

end Sys2Proof.Machine
end

