-- ==== Sys2Proof/Machine/Step.lean ====
section
/-! DEFINITION. One step of the machine: the core takes the next input of the outside (spec/10_state.md R20, spec/20_memory.md R58). -/

namespace Sys2Proof.Machine

/-- One step. With no input at hand the core waits, idle for the next frame (R241) or busy for an answer (R249); the run
goes on for ever (log 5). -/
def step (s : State) : Host.Outcome State Fault Refusal :=
  match s.inputs with
  | [] => .next s
  | a :: rest => receive a { s with inputs := rest }

/-- s with the instruction of a table word placed as the frame the next step takes. -/
def State.withFetchWord (s : State) (nbits w : Nat) : State := placeFrame s (tableFrame nbits w)

end Sys2Proof.Machine
end

