-- ==== Sys2Proof/Safety.lean ====
section
/-! DEFINITION. The terms claims are stated in: what is true of the registers between commands (spec/10_state.md R23, R35), which requests
and responses are legal (spec/42_gcm_engine.md R161, spec/30_encoding.md R79, R80), and the results of the engine's rules said apart from
the loops that compute them. -/

namespace Sys2Proof

/-- The datapath commands (R109). -/
def Instr.Datapath : Instr → Bool
  | .wiFromBytes _ => true
  | .wiFromHalves _ _ => true
  | .wiToBytes _ => true
  | .wiXor _ _ => true
  | .wiAnd _ _ => true
  | .wiShr1 _ => true
  | .wiInc _ => true
  | .wiEq _ _ => true
  | .gfMul _ _ => true
  | .ghash _ _ _ _ => true
  | .tsEqual _ _ => true
  | .sessionNew _ _ _ => false
  | .encrypt _ _ => false
  | .decrypt _ _ => false
  | .sessionClear => false

/-- The two commands that replace or clear the session (R165, R168). -/
def Instr.RenewsSession : Instr → Bool
  | .sessionNew _ _ _ => true
  | .sessionClear => true
  | .encrypt _ _ => false
  | .decrypt _ _ => false
  | .wiFromBytes _ => false
  | .wiFromHalves _ _ => false
  | .wiToBytes _ => false
  | .wiXor _ _ => false
  | .wiAnd _ _ => false
  | .wiShr1 _ => false
  | .wiInc _ => false
  | .wiEq _ _ => false
  | .gfMul _ _ => false
  | .ghash _ _ _ _ => false
  | .tsEqual _ _ => false

end Sys2Proof

namespace Sys2Proof.Machine

/-- The next n cipher requests are answered with a Block. -/
def State.AllAnswered (s : State) (n : Nat) : Prop := ∀ i, i < n → s.drawAt i = .answered

/-- max(1, ceil(|d| / 16)): the blocks Pad16 makes of d (R130, R169). -/
def blockCount (d : ByteString) : Nat := max 1 ((d.length + 15) / 16)

/-- (J0 + i) mod 2^128 (R30, R169). -/
def counterBlock (j0 : Wide) (i : Nat) : Wide := j0 + BitVec.ofNat 128 i

/-- The first two requests and the n keystream requests of R169, in order. -/
def sessionRequests (k : ByteString) (j0 : Wide) (n : Nat) : List Request :=
  { key := k, block := zeros 16 } :: (List.range (n + 1)).map fun i => { key := k, block := be16 (counterBlock j0 i) }

/-- Counter mode byte by byte, without padding or truncation: byte p of the result is byte p of d xor byte p mod 16 of
E(K, J0 + p / 16 + 1) (R163). -/
def counterMode (e : Wide → Wide) (j0 : Wide) (d : ByteString) : ByteString :=
  d.mapIdx fun p x => x ^^^ (be16 (e (counterBlock j0 (p / 16 + 1)))).getD (p % 16) 0

/-- The hash subkey of a key: Val(CIPHER(k, zeros(16))) (R28). -/
def State.hashKey (s : State) (k : ByteString) : Wide := s.cipher k (zeros 16)

/-- E(K, block value) (R163). -/
def State.encipher (s : State) (k : ByteString) (c : Wide) : Wide := s.cipher k (be16 c)

/-- The tag of a session for associated data and ciphertext: the leading TAGSIZE bytes of GHASH(0, H, aad, c) xor E(K, J0)
(R164, R166, R167). -/
def State.tagFor (s : State) (aad c : ByteString) : ByteString :=
  (be16 (ghash 0 (s.hashKey s.slot.sessionKey) aad c ^^^ s.encipher s.slot.sessionKey s.slot.j0)).take s.slot.tagsize.toNat

/-- The text DECRYPT takes from its input: all but the last 16 bytes (R167, R172). -/
def textPart (x : ByteString) : ByteString := x.take (x.length - 16)

/-- The trailer DECRYPT takes from its input: the last 16 bytes (R167, R172). -/
def trailerPart (x : ByteString) : ByteString := x.drop (x.length - 16)

/-- The tag check of DECRYPT: the first TAGSIZE bytes of the trailer are the session's tag (R167). -/
abbrev State.TagMatches (s : State) (aad x : ByteString) : Prop :=
  s.tagFor aad (textPart x) = (trailerPart x).take s.slot.tagsize.toNat

/-- A session that ENCRYPT and DECRYPT accept: READY, with a legal key length, its counter at J0 (R34, R35, R30). -/
structure State.Ready (s : State) : Prop where
  valid : s.slot.valid = true
  unused : s.slot.used = false
  keylen : s.slot.keylen.toNat ∈ keyLengths
  ctr : s.slot.ctr = s.slot.j0

/-- The session invariants of R35, with R23's on the bytes of KEY past KEYLEN and R30's on CTR. -/
structure State.SessionInv (s : State) : Prop where
  keylen : s.slot.valid = true → s.slot.keylen.toNat ∈ keyLengths
  tagsize : s.slot.valid = true → s.slot.tagsize.toNat ∈ tagSizes
  keyTail : s.slot.valid = true →
    (beBytes 32 s.slot.key.toNat).drop s.slot.keylen.toNat = zeros (32 - s.slot.keylen.toNat)
  hsub : s.slot.valid = true → s.slot.hsub = s.hashKey s.slot.sessionKey
  j0 : s.slot.valid = true → ∃ nonce, StrFits nonce ∧ s.slot.j0 = deriveJ0 s.slot.hsub nonce
  ctr : s.slot.valid = true → s.slot.used = false → s.slot.ctr = s.slot.j0
  empty : s.slot.valid = false → s.slot = Slot.empty

/-- A request the cipher agent's contract covers (R160, R161): a key of 16, 24 or 32 bytes and a block of 16. -/
def Request.Legal (r : Request) : Prop := r.key.length ∈ keyLengths ∧ r.block.length = 16

/-- Every request ever made is legal, and a core that waits waits for the last one (R33, R59, R161). -/
structure State.RequestsInv (s : State) : Prop where
  legal : ∀ r ∈ s.requests, r.Legal
  outstanding : ∀ r, s.phase = .waiting r → s.requests.getLast? = some r

/-- A response frame R79 and R80 allow: OK with any payload, an error's STATUS alone, or BackendError and four code
bytes; never 0x03 and never 0x0A to 0xFF (R76). -/
def LegalResponse (r : ByteString) : Prop :=
  r.head? = some 0x00 ∨
  r ∈ [[0x01], [0x02], [0x04], [0x06], [0x07], [0x08], [0x09]] ∨
  ∃ code, code.length = 4 ∧ r = 0x05 :: code

/-- An input that keeps the session of the slot: no reset, and no frame that carries SESSION_NEW or SESSION_CLEAR (R170). -/
def Input.KeepsSession : Input → Prop
  | .frame f => ∀ i, decode f = .command i → i.RenewsSession = false
  | .reset => False
  | .resetDone => True
  | .lateAnswer _ => True

/-- The requests a command makes if every one is answered (R169). -/
def scheduled (i : Instr) (s : State) : List Request :=
  match i with
  | .sessionNew key _ tagSize =>
    if tagSize.toNat ∈ tagSizes ∧ key.length ∈ keyLengths then [{ key := key, block := zeros 16 }] else []
  | .encrypt _ pt =>
    if s.slot.valid = true ∧ s.slot.used = false then
      sessionRequests s.slot.sessionKey s.slot.j0 (blockCount pt)
    else []
  | .decrypt aad x =>
    if s.slot.valid = true ∧ s.slot.used = false ∧ 16 ≤ x.length then
      if s.TagMatches aad x then sessionRequests s.slot.sessionKey s.slot.j0 (blockCount (textPart x))
      else sessionRequests s.slot.sessionKey s.slot.j0 0
    else []
  | .wiFromBytes _ => []
  | .wiFromHalves _ _ => []
  | .wiToBytes _ => []
  | .wiXor _ _ => []
  | .wiAnd _ _ => []
  | .wiShr1 _ => []
  | .wiInc _ => []
  | .wiEq _ _ => []
  | .gfMul _ _ => []
  | .ghash _ _ _ _ => []
  | .tsEqual _ _ => []
  | .sessionClear => []

end Sys2Proof.Machine
end

