-- ==== Sys2Proof/Certificates/Slice0/Obligations.lean ====
section
/-! DEFINITION. The statements for the provers: what the numbered rules of spec/ say the core does, over every state and operand. Each
docstring names the rules it formalises; OBLIGATIONS.json lists them. -/

open Sys2Proof Sys2Proof.Machine

/-! ### Frames -/

/-- R82: the two worked frames decode to their commands; the WI_XOR response is the 17-byte frame given, and the response
of SESSION_NEW is the single byte 00 when the cipher agent answers. -/
def Obligations.WorkedFramesDecodeAndAnswer : Prop :=
  decode [0x13,
      0x00, 0x01, 0x02, 0x03, 0x04, 0x05, 0x06, 0x07, 0x08, 0x09, 0x0a, 0x0b, 0x0c, 0x0d, 0x0e, 0x0f,
      0xff, 0xff, 0xff, 0xff, 0xff, 0xff, 0xff, 0xff, 0x00, 0x00, 0x00, 0x00, 0x00, 0x00, 0x00, 0x00] =
    .command (.wiXor 0x000102030405060708090a0b0c0d0e0f 0xffffffffffffffff0000000000000000) ∧
  (∀ s, exec (.wiXor 0x000102030405060708090a0b0c0d0e0f 0xffffffffffffffff0000000000000000) s =
    .next { s with responses := s.responses ++ [[0x00,
      0xff, 0xfe, 0xfd, 0xfc, 0xfb, 0xfa, 0xf9, 0xf8, 0x08, 0x09, 0x0a, 0x0b, 0x0c, 0x0d, 0x0e, 0x0f]] }) ∧
  decode [0x40,
      0x00, 0x00, 0x00, 0x00, 0x00, 0x00, 0x00, 0x10,
      0x00, 0x00, 0x00, 0x00, 0x00, 0x00, 0x00, 0x00, 0x00, 0x00, 0x00, 0x00, 0x00, 0x00, 0x00, 0x00,
      0x00, 0x00, 0x00, 0x00, 0x00, 0x00, 0x00, 0x0c,
      0x00, 0x00, 0x00, 0x00, 0x00, 0x00, 0x00, 0x00, 0x00, 0x00, 0x00, 0x00,
      0x10] =
    .command (.sessionNew (zeros 16) (zeros 12) 0x10) ∧
  (∀ s, s.drawAt 0 = .answered →
    ∃ t, exec (.sessionNew (zeros 16) (zeros 12) 0x10) s = .next t ∧ t.responses = s.responses ++ [[0x00]])

/-- R70 to R74: decoding the frame of a command a frame can carry gives that command back, every operand at every value. -/
def Obligations.DecodeOfEncodeIsTheCommand : Prop :=
  ∀ i : Instr, i.WellFormed → decode (encode i) = .command i

/-- R74, R75: a frame that decodes to a command is that command's one encoding, and its strings fit. -/
def Obligations.OnlyEncodingsDecode : Prop :=
  ∀ (f : ByteString) (i : Instr), decode f = .command i → i.WellFormed ∧ encode i = f

/-- R74, R75: a frame cut short, down to its opcode byte, and a frame with trailing bytes are malformed. -/
def Obligations.FramesAreExact : Prop :=
  ∀ i : Instr, i.WellFormed →
    (∀ n, 1 ≤ n → n < (encode i).length → decode ((encode i).take n) = .malformedCommand) ∧
    (∀ extra, extra ≠ [] → decode (encode i ++ extra) = .malformedCommand)

/-- R74, R76, R213 item 1: an empty frame is malformed; a frame is illegal exactly when its opcode is outside the map,
whatever follows, so that the opcode is checked before any field. -/
def Obligations.OpcodeIsCheckedFirst : Prop :=
  decode [] = .malformedCommand ∧
  ∀ (op : Byte) (rest : ByteString),
    decode (op :: rest) = .illegalCommand ↔
      op.toNat ≤ 0x0F ∨ (0x18 ≤ op.toNat ∧ op.toNat ≤ 0x1F) ∨ (0x22 ≤ op.toNat ∧ op.toNat ≤ 0x2F) ∨
        (0x31 ≤ op.toNat ∧ op.toNat ≤ 0x3F) ∨ 0x44 ≤ op.toNat

/-- R55, R74: a string longer than MAX_LEN makes its frame malformed, whether it is the first string of the frame or
comes after one that fits, and whatever bytes follow its length field. -/
def Obligations.OverlongStringsAreMalformed : Prop :=
  ∀ (n : Nat) (rest : ByteString), Config.maxLen < n → n < 2 ^ 64 →
    (∀ op ∈ ([0x10, 0x30, 0x40, 0x41, 0x42] : List Byte), decode (op :: (beBytes 8 n ++ rest)) = .malformedCommand) ∧
    (∀ op ∈ ([0x30, 0x40, 0x41, 0x42] : List Byte), ∀ a, StrFits a →
      decode (op :: (beBytes 8 a.length ++ a ++ (beBytes 8 n ++ rest))) = .malformedCommand) ∧
    (∀ init h : Wide, decode (0x21 :: (be16 init ++ be16 h ++ (beBytes 8 n ++ rest))) = .malformedCommand) ∧
    (∀ (init h : Wide) (a : ByteString), StrFits a →
      decode (0x21 :: (be16 init ++ be16 h ++ (beBytes 8 a.length ++ a) ++ (beBytes 8 n ++ rest))) = .malformedCommand)

/-! ### Steps and reset -/

/-- R74, R214: a frame with a decode error, sent to an idle core, gets that status alone and changes nothing else. -/
def Obligations.DecodeErrorsChangeNothing : Prop :=
  ∀ (s : State) (f : ByteString) (rest : List Input), s.phase = .idle → s.inputs = .frame f :: rest →
    (decode f = .illegalCommand →
      step s = .next { s with inputs := rest, responses := s.responses ++ [[0x08]] }) ∧
    (decode f = .malformedCommand →
      step s = .next { s with inputs := rest, responses := s.responses ++ [[0x09]] })

/-- R58, R74: an idle core that takes a frame which decodes to a command runs exactly that command; the step adds only
that the frame has been taken. -/
def Obligations.StepRunsTheDecodedCommand : Prop :=
  ∀ (s : State) (f : ByteString) (rest : List Input) (i : Instr),
    s.phase = .idle → s.inputs = .frame f :: rest → decode f = .command i →
    step s = exec i { s with inputs := rest }

/-- R222, R243 and 93_implementation_defined.md I1, I24: a frame sent while the core is busy, or before a reset has
completed, has no step: the run is refused, whatever the frame. The two phases are the model's reading (log 6, 8). -/
def Obligations.FrameIsRefusedUnlessIdle : Prop :=
  ∀ (s : State) (f : ByteString) (rest : List Input), s.inputs = .frame f :: rest →
    (∀ r, s.phase = .waiting r → step s = .refused .frameWhileBusy) ∧
    (s.phase = .resetting → step s = .refused .frameBeforeResetDone)

/-- R36: the reset value of every register, and no command in progress and no cipher request outstanding. -/
def Obligations.ResetValuesAreTheSpecs : Prop :=
  State.reset.slot.valid = false ∧ State.reset.slot.used = false ∧ State.reset.slot.keylen.toNat = 0 ∧
  beBytes 32 State.reset.slot.key.toNat = zeros 32 ∧ State.reset.slot.tagsize.toNat = 0 ∧
  State.reset.slot.hsub.toNat = 0 ∧ State.reset.slot.j0.toNat = 0 ∧ State.reset.slot.ctr.toNat = 0 ∧
  (∀ r, State.reset.phase ≠ .waiting r) ∧ State.reset.phase = .idle ∧ core.reset = State.reset

/-- R240: a reset, in every phase, sets every register to 0, abandons the command in progress and its request without a
response, and a late answer to an abandoned request is ignored; nothing else the outside does ends a wait. The phase a
reset leaves and the input of a late answer are the model's reading (log 6). -/
def Obligations.ResetFollowsItsRule : Prop :=
  (∀ (s : State) (rest : List Input), s.inputs = .reset :: rest →
    step s = .next { s with
      slot := { valid := false, used := false, keylen := 0, key := 0, tagsize := 0, hsub := 0, j0 := 0, ctr := 0 }
      phase := .resetting, inputs := rest }) ∧
  (∀ (s : State) (a : Answer) (rest : List Input), s.inputs = .lateAnswer a :: rest →
    step s = .next { s with inputs := rest }) ∧
  (∀ (s t : State) (r : Request), s.phase = .waiting r → step s = .next t →
    s.inputs.head? ≠ some .reset → t = { s with inputs := s.inputs.drop 1 })

/-- R241, R242: once T_RESET has passed the core is idle with the slot EMPTY, and the first frame is accepted; T_RESET
passing changes nothing else. The input `resetDone` is the model's reading (log 6). -/
def Obligations.FirstFrameAfterReset : Prop :=
  ∀ (s : State) (f : ByteString) (i : Instr) (rest : List Input),
    s.inputs = .reset :: .resetDone :: .frame f :: rest → decode f = .command i →
    ∃ t u, step s = .next t ∧ step t = .next u ∧ u.phase = .idle ∧ u.slot.sessionState = .empty ∧
      u.responses = s.responses ∧ step u = exec i { u with inputs := rest }

/-- R160 part 3, R249, 93 I8: a core that waits for an answer that does not come waits forever, with no response, as long
as the outside does nothing; `core.run n` is n steps. The endless run is the model's reading of `stuck` (log 5). -/
def Obligations.UnansweredRequestWaitsForever : Prop :=
  ∀ (n : Nat) (s : State) (r : Request), s.phase = .waiting r → s.inputs = [] → core.run n s = .next s

/-! ### WideInteger -/

/-- R101: FromBytes is the big-endian sum over the first 16 bytes, whatever follows them; Val of the first 16 when there
are that many, and 0 for the empty string. -/
def Obligations.FromBytesIsTheBigEndianSum : Prop :=
  (∀ b : ByteString, (fromBytes b).toNat =
    ((List.range (b.take 16).length).map fun i =>
      ((b.take 16).getD i 0).toNat * 256 ^ ((b.take 16).length - 1 - i)).sum) ∧
  (∀ b : ByteString, 16 ≤ b.length → fromBytes b = val (b.take 16)) ∧
  (∀ b extra : ByteString, b.length = 16 → fromBytes (b ++ extra) = fromBytes b) ∧
  (∀ b : ByteString, b.length < 16 → fromBytes (zeros (16 - b.length) ++ b) = fromBytes b) ∧
  fromBytes [] = 0

/-- R102: ToBytes is the canonical 16-byte big-endian encoding (byte i is bits 127 − 8i down to 120 − 8i), and ToBytes
and FromBytes undo each other. -/
def Obligations.ToBytesAndFromBytesAreInverse : Prop :=
  (∀ w : Wide, (toBytes w).length = 16 ∧ ∀ i, i < 16 → (toBytes w).getD i 0 = w.extractLsb' (120 - 8 * i) 8) ∧
  (∀ b : ByteString, b.length = 16 → toBytes (fromBytes b) = b) ∧
  (∀ w : Wide, fromBytes (toBytes w) = w)

/-- R103: FromHalves(hi, lo) = hi · 2^64 + lo, and each half is read back. -/
def Obligations.HalvesMakeTheValue : Prop :=
  ∀ hi lo : Half, (fromHalves hi lo).toNat = hi.toNat * 2 ^ 64 + lo.toNat ∧
    hi64 (fromHalves hi lo) = hi ∧ lo64 (fromHalves hi lo) = lo

/-- R106: Shr1, computed by halves with a carry, is the 128-bit logical shift: bit 127 becomes 0, bit 0 is discarded, every
other bit moves down by one; R118's floor(a / 2). -/
def Obligations.ShiftRightOneIsTheWideShift : Prop :=
  ∀ a : Wide, shr1 a = a >>> 1 ∧ (shr1 a).toNat = a.toNat / 2 ∧ (shr1 a).getLsbD 127 = false ∧
    ∀ i, i < 127 → (shr1 a).getLsbD i = a.getLsbD (i + 1)

/-- R107: Inc, computed by halves with a carry, is (a + 1) mod 2^128 over the full 128 bits, and wraps to 0. -/
def Obligations.IncrementIsModTwoToThe128 : Prop :=
  (∀ a : Wide, (inc a).toNat = (a.toNat + 1) % 2 ^ 128 ∧ inc a = a + 1) ∧
  inc (BitVec.allOnes 128) = 0 ∧
  (∀ a : Wide, a.toNat % 2 ^ 32 = 2 ^ 32 - 1 → (inc a).toNat / 2 ^ 32 = (a.toNat / 2 ^ 32 + 1) % 2 ^ 96)

/-- R110, R111: WI_FROM_BYTES and WI_FROM_HALVES: frame, response, what a frame of the opcode that is no encoding gets,
corner cases and example; nothing but the response changes. -/
def Obligations.FromBytesAndFromHalvesCommands : Prop :=
  (∀ b s, encode (.wiFromBytes b) = 0x10 :: (beBytes 8 b.length ++ b) ∧
    exec (.wiFromBytes b) s = .next { s with responses := s.responses ++ [0x00 :: be16 (fromBytes b)] } ∧
    (b.length < 16 → be16 (fromBytes b) = zeros (16 - b.length) ++ b) ∧
    (16 ≤ b.length → be16 (fromBytes b) = b.take 16)) ∧
  (∀ f, (∀ i : Instr, i.WellFormed → encode i ≠ 0x10 :: f) → decode (0x10 :: f) = .malformedCommand) ∧
  be16 (fromBytes [0x01, 0x02]) = zeros 14 ++ [0x01, 0x02] ∧
  (∀ hi lo s, encode (.wiFromHalves hi lo) = 0x11 :: (beBytes 8 hi.toNat ++ beBytes 8 lo.toNat) ∧
    exec (.wiFromHalves hi lo) s =
      .next { s with responses := s.responses ++ [0x00 :: (beBytes 8 hi.toNat ++ beBytes 8 lo.toNat)] } ∧
    be16 (fromHalves hi lo) = beBytes 8 hi.toNat ++ beBytes 8 lo.toNat)

/-- R112, R117: WI_TO_BYTES and WI_EQ: frame, response, corner cases and example; nothing but the response changes. -/
def Obligations.ToBytesAndEqualCommands : Prop :=
  (∀ a s, encode (.wiToBytes a) = 0x12 :: be16 a ∧
    exec (.wiToBytes a) s = .next { s with responses := s.responses ++ [0x00 :: (beBytes 8 16 ++ be16 a)] }) ∧
  (∀ a b s, encode (.wiEq a b) = 0x17 :: (be16 a ++ be16 b) ∧
    (a = b → exec (.wiEq a b) s = .next { s with responses := s.responses ++ [[0x00, 0x01]] }) ∧
    (a ≠ b → exec (.wiEq a b) s = .next { s with responses := s.responses ++ [[0x00, 0x00]] })) ∧
  (∀ (a : Wide) (i : Nat) s, i < 128 →
    exec (.wiEq a (a ^^^ (1#128 <<< i))) s = .next { s with responses := s.responses ++ [[0x00, 0x00]] })

/-- R113, R114: WI_XOR and WI_AND: frame, response byte by byte, corner cases and example; nothing but the response
changes. -/
def Obligations.XorAndAndCommands : Prop :=
  (∀ a b s, encode (.wiXor a b) = 0x13 :: (be16 a ++ be16 b) ∧
    exec (.wiXor a b) s =
      .next { s with responses := s.responses ++ [0x00 :: List.zipWith (· ^^^ ·) (be16 a) (be16 b)] } ∧
    be16 (a ^^^ b) = List.zipWith (· ^^^ ·) (be16 a) (be16 b)) ∧
  (∀ a : Wide, wideXor a a = 0 ∧ wideXor a 0 = a ∧ wideXor a (BitVec.allOnes 128) = ~~~a) ∧
  wideXor 0x000102030405060708090a0b0c0d0e0f 0xffffffffffffffff0000000000000000 =
    0xfffefdfcfbfaf9f808090a0b0c0d0e0f ∧
  (∀ a b s, encode (.wiAnd a b) = 0x14 :: (be16 a ++ be16 b) ∧
    exec (.wiAnd a b) s =
      .next { s with responses := s.responses ++ [0x00 :: List.zipWith (· &&& ·) (be16 a) (be16 b)] } ∧
    be16 (a &&& b) = List.zipWith (· &&& ·) (be16 a) (be16 b)) ∧
  (∀ a : Wide, wideAnd a 0 = 0 ∧ wideAnd a (BitVec.allOnes 128) = a ∧ wideAnd a a = a) ∧
  wideAnd 0xff00ff00ff00ff00ff00ff00ff00ff00 0x0ff00ff00ff00ff00ff00ff00ff00ff0 =
    0x0f000f000f000f000f000f000f000f00

/-- R115, R116: WI_SHR1 and WI_INC: frame, response, corner cases and example; nothing but the response changes. -/
def Obligations.ShiftAndIncrementCommands : Prop :=
  (∀ a s, encode (.wiShr1 a) = 0x15 :: be16 a ∧
    exec (.wiShr1 a) s = .next { s with responses := s.responses ++ [0x00 :: be16 (a >>> 1)] }) ∧
  shr1 0 = 0 ∧ shr1 1 = 0 ∧ (shr1 (BitVec.allOnes 128)).toNat = 2 ^ 127 - 1 ∧
  shr1 (BitVec.ofNat 128 (2 ^ 64)) = BitVec.ofNat 128 (2 ^ 63) ∧
  shr1 0x00000000000000010000000000000000 = 0x00000000000000008000000000000000 ∧
  (∀ a s, encode (.wiInc a) = 0x16 :: be16 a ∧
    exec (.wiInc a) s = .next { s with responses := s.responses ++ [0x00 :: be16 (a + 1)] }) ∧
  inc (BitVec.ofNat 128 (2 ^ 64 - 1)) = BitVec.ofNat 128 (2 ^ 64) ∧
  inc (BitVec.ofNat 128 (2 ^ 32 - 1)) = BitVec.ofNat 128 (2 ^ 32) ∧ inc (BitVec.allOnes 128) = 0 ∧
  inc 0x0000000000000000ffffffffffffffff = 0x00000000000000010000000000000000

/-- R109: a datapath command is accepted in every state, with the same OK response in each: it reads and writes no
register and no flag, makes no request, and raises nothing after decoding. -/
def Obligations.DatapathCommandsArePure : Prop :=
  ∀ i : Instr, i.Datapath = true → ∃ payload : ByteString, ∀ s : State,
    exec i s = .next { s with responses := s.responses ++ [0x00 :: payload] }

/-! ### Field arithmetic and GHASH -/

/-- R130: Pad16 makes max(1, ceil(|s| / 16)) blocks of 16 bytes; together they are s with fewer than 16 zeros after it, and
one zero block for the empty string; a string of whole blocks gets no padding. -/
def Obligations.PaddingFillsWholeBlocks : Prop :=
  (∀ b : ByteString, (pad16 b).length = max 1 ((b.length + 15) / 16) ∧ ∀ x ∈ pad16 b, x.length = 16) ∧
  (∀ b : ByteString, b ≠ [] → ∃ n, n < 16 ∧ (pad16 b).flatten = b ++ zeros n) ∧
  (∀ b : ByteString, b ≠ [] → b.length % 16 = 0 → (pad16 b).flatten = b) ∧
  pad16 [] = [zeros 16]

/-- R132: for strings of at most MAX_LEN bytes no bit length wraps, and LenBlock is the two 64-bit big-endian bit
lengths, the associated data's first. -/
def Obligations.LengthBlockHoldsBothBitLengths : Prop :=
  ∀ a c : ByteString, StrFits a → StrFits c →
    8 * a.length < 2 ^ 64 ∧ 8 * c.length < 2 ^ 64 ∧
    (lenBlock a c).toNat = 8 * a.length * 2 ^ 64 + 8 * c.length ∧
    be16 (lenBlock a c) = beBytes 8 (8 * a.length) ++ beBytes 8 (8 * c.length)

/-- R136: the product is commutative. -/
def Obligations.GfMulCommutes : Prop := ∀ x y : Wide, gfMul x y = gfMul y x

/-- R136: the product is associative and distributes over Xor on both sides. -/
def Obligations.GfMulIsAssociativeAndDistributes : Prop :=
  (∀ x y z : Wide, gfMul (gfMul x y) z = gfMul x (gfMul y z)) ∧
  (∀ x y z : Wide, gfMul x (y ^^^ z) = gfMul x y ^^^ gfMul x z) ∧
  (∀ x y z : Wide, gfMul (x ^^^ y) z = gfMul x z ^^^ gfMul y z)

/-- R136: 0 annihilates, 2^127 is the identity on both sides, and x^127 · x reduces to R. -/
def Obligations.GfMulZeroAndIdentity : Prop :=
  (∀ x : Wide, gfMul x 0 = 0 ∧ gfMul 0 x = 0) ∧
  (∀ x : Wide, gfMul x (BitVec.ofNat 128 (2 ^ 127)) = x ∧ gfMul (BitVec.ofNat 128 (2 ^ 127)) x = x) ∧
  gfMul 1 (BitVec.ofNat 128 (2 ^ 126)) = 0xE1000000000000000000000000000000

/-- The element of GF(2)[x] a field value stands for: bit 127 − i is the coefficient of x^i (R136; the bit order is the
spec's remark from general knowledge, and the one in which R = x^128 reduced). -/
noncomputable def polyOf (v : Wide) : Polynomial (ZMod 2) :=
  ∑ i ∈ Finset.range 128, if v.getLsbD (127 - i) then Polynomial.X ^ i else 0

/-- POLY = x^128 + x^7 + x^2 + x + 1 (R8, R133). -/
noncomputable def reductionPoly : Polynomial (ZMod 2) :=
  Polynomial.X ^ 128 + Polynomial.X ^ 7 + Polynomial.X ^ 2 + Polynomial.X + 1

/-- R133, R134: the 128 iterations compute the product of polynomials over GF(2) reduced by POLY. -/
def Obligations.GfMulIsTheReducedPolynomialProduct : Prop :=
  ∀ x y : Wide, reductionPoly ∣ polyOf x * polyOf y - polyOf (gfMul x y)

/-- R140: GF_MUL: frame, response, corner cases and example; nothing but the response changes. -/
def Obligations.GfMulCommand : Prop :=
  (∀ x y s, encode (.gfMul x y) = 0x20 :: (be16 x ++ be16 y) ∧
    exec (.gfMul x y) s = .next { s with responses := s.responses ++ [0x00 :: be16 (gfMul x y)] } ∧
    exec (.gfMul x y) s = exec (.gfMul y x) s) ∧
  (∀ x s, exec (.gfMul x 0) s = .next { s with responses := s.responses ++ [0x00 :: zeros 16] } ∧
    exec (.gfMul x 0x80000000000000000000000000000000) s =
      .next { s with responses := s.responses ++ [0x00 :: be16 x] }) ∧
  (∀ s, exec (.gfMul 0x0388dace60b6a392f328c2b971b2fe78 0x66e94bd4ef8a2c3b884cfa59ca342b2e) s =
    .next { s with responses := s.responses ++ [0x00 :: be16 0x5e2ec746917062882c85b0685353deb7] })

/-- R138: the empty-input rule: with init 0 an empty aad changes nothing; an empty c after a nonzero accumulator folds one
zero block, a multiplication by H; and GHASH of nothing is 0. -/
def Obligations.GhashOfEmptyInputs : Prop :=
  (∀ (h : Wide) (c : ByteString),
    ghash 0 h [] c = gfMul (foldBlocks h 0 (pad16 c) ^^^ lenBlock [] c) h) ∧
  (∀ (init h : Wide) (a : ByteString),
    ghash init h a [] = gfMul (gfMul (foldBlocks h init (pad16 a)) h ^^^ lenBlock a []) h) ∧
  (∀ h : Wide, ghash 0 h [] [] = 0)

/-- R137, R141: GHASH: frame, response, what a frame of the opcode that is no encoding gets, corner cases (h = 0 gives 0;
strings of whole blocks fold no padding block) and example; nothing but the response changes. -/
def Obligations.GhashCommand : Prop :=
  (∀ init h aad c s, encode (.ghash init h aad c) =
      0x21 :: (be16 init ++ be16 h ++ (beBytes 8 aad.length ++ aad) ++ (beBytes 8 c.length ++ c)) ∧
    exec (.ghash init h aad c) s =
      .next { s with responses := s.responses ++
        [0x00 :: be16 (gfMul (((pad16 aad ++ pad16 c).foldl (fun acc b => gfMul (acc ^^^ val b) h) init) ^^^
          lenBlock aad c) h)] }) ∧
  (∀ f, (∀ i : Instr, i.WellFormed → encode i ≠ 0x21 :: f) → decode (0x21 :: f) = .malformedCommand) ∧
  (∀ init aad c s,
    exec (.ghash init 0 aad c) s = .next { s with responses := s.responses ++ [0x00 :: zeros 16] }) ∧
  (∀ n aad, 0 < n → aad.length = 16 * n → (pad16 aad).length = n) ∧
  (∀ s, exec (.ghash 0 0x66e94bd4ef8a2c3b884cfa59ca342b2e [] (be16 0x0388dace60b6a392f328c2b971b2fe78)) s =
    .next { s with responses := s.responses ++ [0x00 :: be16 0xf38cbb1ad69223dcc3457ae5b6b0f885] })

/-! ### The comparator -/

/-- R200: TimingSafeEqual, the or of all xors, is equality of the two strings. -/
def Obligations.TimingSafeEqualIsEquality : Prop :=
  (∀ a b : ByteString, timingSafeEqual a b = true ↔ a = b) ∧
  (∀ a b : ByteString, a.length ≠ b.length → timingSafeEqual a b = false)

/-- R202: TS_EQUAL: frame, response, what a frame of the opcode that is no encoding gets, corner cases and example;
nothing but the response changes. -/
def Obligations.TsEqualCommand : Prop :=
  (∀ a b s, encode (.tsEqual a b) = 0x30 :: (beBytes 8 a.length ++ a ++ (beBytes 8 b.length ++ b)) ∧
    (a = b → exec (.tsEqual a b) s = .next { s with responses := s.responses ++ [[0x00, 0x01]] }) ∧
    (a ≠ b → exec (.tsEqual a b) s = .next { s with responses := s.responses ++ [[0x00, 0x00]] })) ∧
  (∀ f, (∀ i : Instr, i.WellFormed → encode i ≠ 0x30 :: f) → decode (0x30 :: f) = .malformedCommand) ∧
  (∀ f, decode (0x30 :: f) ≠ .illegalCommand) ∧
  (∀ s, exec (.tsEqual [0xab, 0x6e, 0x47, 0xd4] [0xab, 0x6e, 0x47, 0xd5]) s =
    .next { s with responses := s.responses ++ [[0x00, 0x00]] })

/-! ### The engine -/

/-- R162: DeriveJ0: a 12-byte nonce followed by the 32-bit counter 1; every other length the GHASH of the nonce, which is
the published fold of the nonce's blocks (none for the empty nonce) and of its bit length; 0 for the empty nonce. -/
def Obligations.DeriveJ0FollowsItsRule : Prop :=
  (∀ (h : Wide) (nonce : ByteString), nonce.length = 12 →
    be16 (deriveJ0 h nonce) = nonce ++ [0x00, 0x00, 0x00, 0x01] ∧ (deriveJ0 h nonce).toNat % 2 ^ 32 = 1) ∧
  (∀ (h : Wide) (nonce : ByteString), nonce.length ≠ 12 →
    deriveJ0 h nonce = ghash 0 h [] nonce ∧
    deriveJ0 h nonce =
      gfMul (foldBlocks h 0 (if nonce = [] then [] else pad16 nonce) ^^^ BitVec.ofNat 128 (8 * nonce.length)) h) ∧
  (∀ h : Wide, deriveJ0 h [] = 0)

/-- R163: Keystream with every request answered: byte by byte counter mode from CTR + 1 on, of the length of d; one
increment and one request per block of Pad16(d), one for an empty d; and it undoes itself. -/
def Obligations.KeystreamFollowsItsRule : Prop :=
  ∀ (k d : ByteString) (s : State), k.length ∈ keyLengths → s.AllAnswered (blockCount d) →
    keystream k d s = .done (counterMode (s.encipher k) s.slot.ctr d)
      { s with
        slot := { s.slot with ctr := counterBlock s.slot.ctr (blockCount d) }
        draws := s.draws.drop (blockCount d)
        requests := s.requests ++ (List.range (blockCount d)).map fun i =>
          { key := k, block := be16 (counterBlock s.slot.ctr (i + 1)) } } ∧
    (counterMode (s.encipher k) s.slot.ctr d).length = d.length ∧
    counterMode (s.encipher k) s.slot.ctr (counterMode (s.encipher k) s.slot.ctr d) = d

/-- R165: SESSION_NEW: its frame; the session it opens when both validations pass and the cipher agent answers; each
error, in order, with the slot EMPTY after it whatever it held; the tag sizes refused; the example. -/
def Obligations.SessionNewFollowsItsRule : Prop :=
  (∀ key nonce tagSize, encode (.sessionNew key nonce tagSize) =
    0x40 :: (beBytes 8 key.length ++ key ++ (beBytes 8 nonce.length ++ nonce) ++ [tagSize])) ∧
  (∀ f, (∀ i : Instr, i.WellFormed → encode i ≠ 0x40 :: f) → decode (0x40 :: f) = .malformedCommand) ∧
  (∀ (key nonce : ByteString) (tagSize : Byte) (s : State),
    tagSize.toNat ∈ tagSizes → key.length ∈ keyLengths → s.drawAt 0 = .answered →
    ∃ t, exec (.sessionNew key nonce tagSize) s = .next t ∧
      t.slot.valid = true ∧ t.slot.used = false ∧ t.slot.keylen.toNat = key.length ∧
      beBytes 32 t.slot.key.toNat = key ++ zeros (32 - key.length) ∧ t.slot.tagsize.toNat = tagSize.toNat ∧
      t.slot.hsub = s.cipher key (zeros 16) ∧ t.slot.j0 = deriveJ0 (s.cipher key (zeros 16)) nonce ∧
      t.slot.ctr = t.slot.j0 ∧ t.phase = s.phase ∧ t.inputs = s.inputs ∧ t.points = s.points ∧
      t.draws = s.draws.drop 1 ∧ t.requests = s.requests ++ [{ key := key, block := zeros 16 }] ∧
      t.responses = s.responses ++ [[0x00]]) ∧
  (∀ (key nonce : ByteString) (tagSize : Byte) (s : State), tagSize.toNat ∉ tagSizes →
    exec (.sessionNew key nonce tagSize) s =
      .next { s with slot := Slot.empty, responses := s.responses ++ [[0x02]] }) ∧
  (∀ (key nonce : ByteString) (tagSize : Byte) (s : State),
    tagSize.toNat ∈ tagSizes → key.length ∉ keyLengths →
    exec (.sessionNew key nonce tagSize) s =
      .next { s with slot := Slot.empty, responses := s.responses ++ [[0x01]] }) ∧
  (∀ (key nonce : ByteString) (tagSize : Byte) (s : State) (code : BitVec 32),
    tagSize.toNat ∈ tagSizes → key.length ∈ keyLengths → s.drawAt 0 = .failed code →
    exec (.sessionNew key nonce tagSize) s =
      .next { s with
        slot := Slot.empty, draws := s.draws.drop 1
        requests := s.requests ++ [{ key := key, block := zeros 16 }]
        responses := s.responses ++ [0x05 :: beBytes 4 code.toNat] }) ∧
  (∀ v : Byte, v.toNat ∉ tagSizes ↔
    v.toNat ≤ 3 ∨ (5 ≤ v.toNat ∧ v.toNat ≤ 7) ∨ (9 ≤ v.toNat ∧ v.toNat ≤ 11) ∨ 17 ≤ v.toNat) ∧
  (∀ s : State, s.drawAt 0 = .answered →
    s.cipher (zeros 16) (zeros 16) = 0x66e94bd4ef8a2c3b884cfa59ca342b2e →
    ∃ t, exec (.sessionNew (zeros 16) (zeros 12) 16) s = .next t ∧ t.responses = s.responses ++ [[0x00]] ∧
      t.slot.hsub = 0x66e94bd4ef8a2c3b884cfa59ca342b2e ∧ t.slot.j0 = 1 ∧ t.slot.ctr = 1)

/-- R166: ENCRYPT: its frame; on a READY session with every request answered, ciphertext then tag, with USED set, CTR
moved forward by the blocks taken and the requests of R169; NoSession and SessionAlreadyUsed first, changing nothing;
BackendError of the first failing request, with no output, USED set, and CTR at the last block started; the example. -/
def Obligations.EncryptFollowsItsRule : Prop :=
  (∀ aad pt, encode (.encrypt aad pt) = 0x41 :: (beBytes 8 aad.length ++ aad ++ (beBytes 8 pt.length ++ pt))) ∧
  (∀ f, (∀ i : Instr, i.WellFormed → encode i ≠ 0x41 :: f) → decode (0x41 :: f) = .malformedCommand) ∧
  (∀ (aad pt : ByteString) (s : State), s.slot.valid = false →
    exec (.encrypt aad pt) s = .next { s with responses := s.responses ++ [[0x07]] }) ∧
  (∀ (aad pt : ByteString) (s : State), s.slot.valid = true → s.slot.used = true →
    exec (.encrypt aad pt) s = .next { s with responses := s.responses ++ [[0x04]] }) ∧
  (∀ (aad pt : ByteString) (s : State), s.Ready → s.AllAnswered (2 + blockCount pt) →
    ∃ c tag, c = counterMode (s.encipher s.slot.sessionKey) s.slot.j0 pt ∧ tag = s.tagFor aad c ∧
      c.length = pt.length ∧ (s.slot.tagsize.toNat ∈ tagSizes → tag.length = s.slot.tagsize.toNat) ∧
      exec (.encrypt aad pt) s = .next { s with
        slot := { s.slot with used := true, ctr := counterBlock s.slot.j0 (blockCount pt) }
        draws := s.draws.drop (2 + blockCount pt)
        requests := s.requests ++ sessionRequests s.slot.sessionKey s.slot.j0 (blockCount pt)
        responses := s.responses ++ [0x00 :: (beBytes 8 (c ++ tag).length ++ (c ++ tag))] }) ∧
  (∀ (aad pt : ByteString) (s : State) (m : Nat) (code : BitVec 32), s.Ready → m < 2 + blockCount pt →
    s.AllAnswered m → s.drawAt m = .failed code →
    exec (.encrypt aad pt) s = .next { s with
      slot := { s.slot with used := true, ctr := counterBlock s.slot.j0 (m - 1) }
      draws := s.draws.drop (m + 1)
      requests := s.requests ++ (sessionRequests s.slot.sessionKey s.slot.j0 (blockCount pt)).take (m + 1)
      responses := s.responses ++ [0x05 :: beBytes 4 code.toNat] }) ∧
  (∀ s : State, s.Ready → s.AllAnswered 3 → s.slot.tagsize = 16 → s.slot.sessionKey = zeros 16 → s.slot.j0 = 1 →
    s.cipher (zeros 16) (zeros 16) = 0x66e94bd4ef8a2c3b884cfa59ca342b2e →
    s.cipher (zeros 16) (be16 1) = 0x58e2fccefa7e3061367f1d57a4e7455a →
    s.cipher (zeros 16) (be16 2) = 0x0388dace60b6a392f328c2b971b2fe78 →
    ∃ t, exec (.encrypt [] (zeros 16)) s = .next t ∧ t.responses = s.responses ++
      [0x00 :: (beBytes 8 32 ++ (be16 0x0388dace60b6a392f328c2b971b2fe78 ++ be16 0xab6e47d42cec13bdf53a67b21257bddf))])

/-- R167: DECRYPT: its frame; NoSession and SessionAlreadyUsed first, changing nothing; an input shorter than 16 bytes
fails with no request; on a READY session whose tag matches, the plaintext; on a mismatch AuthenticationFailure with the
two first requests only and CTR at J0; BackendError of the H' or M request whatever the tag, of a keystream request when
the tag matches; the example. -/
def Obligations.DecryptFollowsItsRule : Prop :=
  (∀ aad x, encode (.decrypt aad x) = 0x42 :: (beBytes 8 aad.length ++ aad ++ (beBytes 8 x.length ++ x))) ∧
  (∀ f, (∀ i : Instr, i.WellFormed → encode i ≠ 0x42 :: f) → decode (0x42 :: f) = .malformedCommand) ∧
  (∀ (aad x : ByteString) (s : State), s.slot.valid = false →
    exec (.decrypt aad x) s = .next { s with responses := s.responses ++ [[0x07]] }) ∧
  (∀ (aad x : ByteString) (s : State), s.slot.valid = true → s.slot.used = true →
    exec (.decrypt aad x) s = .next { s with responses := s.responses ++ [[0x04]] }) ∧
  (∀ (aad x : ByteString) (s : State), s.slot.valid = true → s.slot.used = false → x.length < 16 →
    exec (.decrypt aad x) s =
      .next { s with slot := { s.slot with used := true }, responses := s.responses ++ [[0x06]] }) ∧
  (∀ (aad x : ByteString) (s : State), s.Ready → 16 ≤ x.length → s.TagMatches aad x →
    s.AllAnswered (2 + blockCount (textPart x)) →
    ∃ p, p = counterMode (s.encipher s.slot.sessionKey) s.slot.j0 (textPart x) ∧ p.length = x.length - 16 ∧
      exec (.decrypt aad x) s = .next { s with
        slot := { s.slot with used := true, ctr := counterBlock s.slot.j0 (blockCount (textPart x)) }
        draws := s.draws.drop (2 + blockCount (textPart x))
        requests := s.requests ++ sessionRequests s.slot.sessionKey s.slot.j0 (blockCount (textPart x))
        responses := s.responses ++ [0x00 :: (beBytes 8 p.length ++ p)] }) ∧
  (∀ (aad x : ByteString) (s : State), s.Ready → 16 ≤ x.length → ¬ s.TagMatches aad x → s.AllAnswered 2 →
    exec (.decrypt aad x) s = .next { s with
      slot := { s.slot with used := true }, draws := s.draws.drop 2
      requests := s.requests ++ sessionRequests s.slot.sessionKey s.slot.j0 0
      responses := s.responses ++ [[0x06]] }) ∧
  (∀ (aad x : ByteString) (s : State) (m : Nat) (code : BitVec 32), s.Ready → 16 ≤ x.length →
    (m < 2 ∨ (m < 2 + blockCount (textPart x) ∧ s.TagMatches aad x)) →
    s.AllAnswered m → s.drawAt m = .failed code →
    exec (.decrypt aad x) s = .next { s with
      slot := { s.slot with used := true, ctr := counterBlock s.slot.j0 (m - 1) }
      draws := s.draws.drop (m + 1)
      requests := s.requests ++ (sessionRequests s.slot.sessionKey s.slot.j0 (blockCount (textPart x))).take (m + 1)
      responses := s.responses ++ [0x05 :: beBytes 4 code.toNat] }) ∧
  (∀ s : State, s.Ready → s.AllAnswered 3 → s.slot.tagsize = 16 → s.slot.sessionKey = zeros 16 → s.slot.j0 = 1 →
    s.cipher (zeros 16) (zeros 16) = 0x66e94bd4ef8a2c3b884cfa59ca342b2e →
    s.cipher (zeros 16) (be16 1) = 0x58e2fccefa7e3061367f1d57a4e7455a →
    s.cipher (zeros 16) (be16 2) = 0x0388dace60b6a392f328c2b971b2fe78 →
    ∃ t, exec (.decrypt [] (be16 0x0388dace60b6a392f328c2b971b2fe78 ++ be16 0xab6e47d42cec13bdf53a67b21257bddf)) s =
      .next t ∧ t.responses = s.responses ++ [0x00 :: (beBytes 8 16 ++ zeros 16)])

/-- R168: SESSION_CLEAR, in every state: every session register 0, the slot EMPTY, response 00, no request; idempotent. -/
def Obligations.SessionClearFollowsItsRule : Prop :=
  encode .sessionClear = [0x43] ∧
  (∀ f, f ≠ [] → decode (0x43 :: f) = .malformedCommand) ∧
  (∀ s, exec .sessionClear s = .next { s with
    slot := { valid := false, used := false, keylen := 0, key := 0, tagsize := 0, hsub := 0, j0 := 0, ctr := 0 }
    responses := s.responses ++ [[0x00]] }) ∧
  (∀ s t u, exec .sessionClear s = .next t → exec .sessionClear t = .next u →
    t.slot.sessionState = .empty ∧ u.slot = t.slot ∧ u.requests = s.requests)

/-- R160 part 3, R214, R249: if request m of a session command is never answered, the core is left waiting for exactly that
request: no response, the requests up to it seen, the registers as written before it. -/
def Obligations.SilentAgentLeavesTheCoreWaiting : Prop :=
  (∀ (key nonce : ByteString) (tagSize : Byte) (s : State),
    tagSize.toNat ∈ tagSizes → key.length ∈ keyLengths → s.drawAt 0 = .silent →
    exec (.sessionNew key nonce tagSize) s = .next { s with
      slot := Slot.empty, phase := .waiting { key := key, block := zeros 16 }, draws := s.draws.drop 1
      requests := s.requests ++ [{ key := key, block := zeros 16 }] }) ∧
  (∀ (aad pt : ByteString) (s : State) (m : Nat), s.Ready → m < 2 + blockCount pt →
    s.AllAnswered m → s.drawAt m = .silent →
    ∃ r, (sessionRequests s.slot.sessionKey s.slot.j0 (blockCount pt))[m]? = some r ∧
    exec (.encrypt aad pt) s = .next { s with
      slot := { s.slot with used := true, ctr := counterBlock s.slot.j0 (m - 1) }
      phase := .waiting r, draws := s.draws.drop (m + 1)
      requests := s.requests ++ (sessionRequests s.slot.sessionKey s.slot.j0 (blockCount pt)).take (m + 1) }) ∧
  (∀ (aad x : ByteString) (s : State) (m : Nat), s.Ready → 16 ≤ x.length →
    (m < 2 ∨ (m < 2 + blockCount (textPart x) ∧ s.TagMatches aad x)) →
    s.AllAnswered m → s.drawAt m = .silent →
    ∃ r, (sessionRequests s.slot.sessionKey s.slot.j0 (blockCount (textPart x)))[m]? = some r ∧
    exec (.decrypt aad x) s = .next { s with
      slot := { s.slot with used := true, ctr := counterBlock s.slot.j0 (m - 1) }
      phase := .waiting r, draws := s.draws.drop (m + 1)
      requests := s.requests ++
        (sessionRequests s.slot.sessionKey s.slot.j0 (blockCount (textPart x))).take (m + 1) })

/-! ### The whole machine -/

/-- R169: the requests a command adds are the first so many of the sequence the table gives it, and all of them when the
response is OK or AuthenticationFailure; a BackendError ends them at the failing one; a command with no row makes none. -/
def Obligations.RequestsFollowTheTable : Prop :=
  ∀ (i : Instr) (s t : State), s.SessionInv → exec i s = .next t →
    ∃ n, n ≤ (scheduled i s).length ∧ t.requests = s.requests ++ (scheduled i s).take n ∧
      (∀ r, t.responses = s.responses ++ [r] → (r.head? = some 0x00 ∨ r = [0x06]) → n = (scheduled i s).length) ∧
      (∀ m, m < n - 1 → s.drawAt m = .answered) ∧
      (∀ code : BitVec 32, t.responses = s.responses ++ [0x05 :: beBytes 4 code.toNat] →
        0 < n ∧ s.drawAt (n - 1) = .failed code)

/-- R56, R215, R249: a command that gives a next state has either produced exactly one response and left the core as idle
as it was, or it waits for its last request with no response; it does not touch what the outside will do, and it uses
one draw for each request. -/
def Obligations.OneResponseForEachCommand : Prop :=
  ∀ (i : Instr) (s t : State), exec i s = .next t →
    t.inputs = s.inputs ∧ t.points = s.points ∧
    (∃ rs, t.requests = s.requests ++ rs ∧ t.draws = s.draws.drop rs.length) ∧
    ((∃ r, t.responses = s.responses ++ [r] ∧ t.phase = s.phase) ∨
     (∃ r, t.responses = s.responses ∧ t.phase = .waiting r ∧ t.requests.getLast? = some r))

/-- R35, with R23 on KEY and R30 on CTR: every step keeps the session invariants. -/
def Obligations.StepKeepsSessionInvariants : Prop :=
  ∀ s t : State, s.SessionInv → step s = .next t → t.SessionInv

/-- R35, R36: the reset state meets the session invariants, the request invariants and the response rule. -/
def Obligations.ResetMeetsTheInvariants : Prop :=
  State.reset.SessionInv ∧ State.reset.RequestsInv ∧ ∀ r ∈ State.reset.responses, LegalResponse r

/-- R161, R33, R59: every step keeps every cipher request legal, with a key of 16, 24 or 32 bytes and a block of 16, and
keeps the outstanding request the last one made. -/
def Obligations.StepKeepsRequestsLegal : Prop :=
  ∀ s t : State, s.SessionInv → s.RequestsInv → step s = .next t → t.RequestsInv

/-- R76, R79, R80, R212: every step keeps every response legal: OK, or an error's status alone, or BackendError and four
bytes; InvalidBlockSize and the reserved values are never sent. -/
def Obligations.StepKeepsResponsesLegal : Prop :=
  ∀ s t : State, (∀ r ∈ s.responses, LegalResponse r) → step s = .next t → ∀ r ∈ t.responses, LegalResponse r

/-- R212, R243, R249: from a state that meets the session invariants no step faults, and a step stops only where the host
sends a frame to a core that is not idle; in every other case there is a next state. -/
def Obligations.StepStopsOnlyOnAHostDuty : Prop :=
  ∀ s : State, s.SessionInv →
    (∃ t, step s = .next t) ∨
    (s.phase ≠ .idle ∧ (∃ f rest, s.inputs = .frame f :: rest) ∧
      (step s = .refused .frameWhileBusy ∨ step s = .refused .frameBeforeResetDone))

/-- R34: the transitions of the session state. VALID = 0 with USED = 1 does not occur; SESSION_NEW ends READY exactly when
its response is OK and EMPTY otherwise; ENCRYPT and DECRYPT take READY to SPENT whatever the outcome, and change nothing in
SPENT or EMPTY; SESSION_CLEAR ends EMPTY; the datapath commands change no register. -/
def Obligations.SessionStatesMoveAsTabled : Prop :=
  ∀ (s : State), s.SessionInv → s.slot.sessionState ≠ .impossible ∧
    (∀ key nonce tagSize t, exec (.sessionNew key nonce tagSize) s = .next t →
      (t.responses = s.responses ++ [[0x00]] ∧ t.slot.sessionState = .ready) ∨
      (t.responses ≠ s.responses ++ [[0x00]] ∧ t.slot.sessionState = .empty)) ∧
    (∀ (i : Instr) (a b : ByteString) (t : State), (i = .encrypt a b ∨ i = .decrypt a b) → exec i s = .next t →
      (s.slot.sessionState = .ready → t.slot.sessionState = .spent) ∧
      (s.slot.sessionState = .spent → t.slot = s.slot ∧ t.responses = s.responses ++ [[0x04]]) ∧
      (s.slot.sessionState = .empty → t.slot = s.slot ∧ t.responses = s.responses ++ [[0x07]])) ∧
    (∀ t, exec .sessionClear s = .next t → t.slot.sessionState = .empty) ∧
    (∀ (i : Instr) (t : State), i.Datapath = true → exec i s = .next t → t.slot = s.slot)

/-- R170, R244: once a session is SPENT it stays so, over any number of steps in which the outside neither resets nor sends
SESSION_NEW or SESSION_CLEAR: no register changes, no request is made, and ENCRYPT and DECRYPT get SessionAlreadyUsed
regardless of arguments. -/
def Obligations.SpentSessionStaysSpent : Prop :=
  ∀ (n : Nat) (s t : State), s.slot.sessionState = .spent → (∀ a ∈ s.inputs, a.KeepsSession) →
    core.run n s = .next t →
    t.slot = s.slot ∧ t.requests = s.requests ∧
    ∀ a b, exec (.encrypt a b) t = .next { t with responses := t.responses ++ [[0x04]] } ∧
      exec (.decrypt a b) t = .next { t with responses := t.responses ++ [[0x04]] }

/-- R170: no counter value after J0 is sent to the cipher agent twice under one session: the tag-mask and keystream blocks
of one ENCRYPT or DECRYPT of a string that fits are pairwise different. -/
def Obligations.CounterBlocksNeverRepeat : Prop :=
  ∀ (i : Instr) (a b : ByteString) (s t : State), (i = .encrypt a b ∨ i = .decrypt a b) → StrFits b → s.Ready →
    exec i s = .next t → (t.requests.drop (s.requests.length + 1)).Nodup

/-- R172 and SWGCM §8 round trip: for tag size 16, two sessions opened with the same key and nonce, on the same cipher with
every request answered, give DECRYPT(a, ENCRYPT(a, p)) = p. -/
def Obligations.DecryptUndoesEncrypt : Prop :=
  ∀ (key nonce aad pt : ByteString) (s t : State), key.length ∈ keyLengths → StrFits pt → t.points = s.points →
    s.AllAnswered (3 + blockCount pt) → t.AllAnswered (3 + blockCount pt) →
    ∃ s1 s2 t1 t2 out,
      exec (.sessionNew key nonce 16) s = .next s1 ∧ exec (.encrypt aad pt) s1 = .next s2 ∧
      s2.responses = s1.responses ++ [0x00 :: (beBytes 8 out.length ++ out)] ∧
      exec (.sessionNew key nonce 16) t = .next t1 ∧ exec (.decrypt aad out) t1 = .next t2 ∧
      t2.responses = t1.responses ++ [0x00 :: (beBytes 8 pt.length ++ pt)]

/-- R167, R175: a DECRYPT whose response is OK was of an input of at least 16 bytes whose trailer begins with the session's
tag for the associated data and text given, under a READY session; any other response carries no text. -/
def Obligations.DecryptOpensOnlyAMatchingTag : Prop :=
  ∀ (aad x r : ByteString) (s t : State), exec (.decrypt aad x) s = .next t → t.responses = s.responses ++ [r] →
    (r.head? = some 0x00 → s.slot.sessionState = .ready ∧ 16 ≤ x.length ∧ s.TagMatches aad x) ∧
    (r.head? ≠ some 0x00 → r = [0x04] ∨ r = [0x06] ∨ r = [0x07] ∨ ∃ code : BitVec 32, r = 0x05 :: beBytes 4 code.toNat)

/-- R172: with TAGSIZE < 16 the last 16 − TAGSIZE bytes of the input are neither authenticated nor returned: DECRYPT does
the same on two inputs that differ only there. -/
def Obligations.DecryptIgnoresTheEndOfTheTrailer : Prop :=
  ∀ (aad x tag tail1 tail2 : ByteString) (s : State), tag.length = s.slot.tagsize.toNat →
    tag.length + tail1.length = 16 → tail2.length = tail1.length →
    exec (.decrypt aad (x ++ tag ++ tail1)) s = exec (.decrypt aad (x ++ tag ++ tail2)) s

/-- R173: the i-th counter block is the one of the 32-bit increment, the high 96 bits of J0 unchanged, as long as
(J0 mod 2^32) + i < 2^32; and it is not for the first block when J0 mod 2^32 = 2^32 − 1. -/
def Obligations.CounterAgreesWithTheThirtyTwoBitIncrement : Prop :=
  (∀ (j0 : Wide) (i : Nat), j0.toNat % 2 ^ 32 + i < 2 ^ 32 →
    counterBlock j0 i = j0.extractLsb' 32 96 ++ (j0.extractLsb' 0 32 + BitVec.ofNat 32 i) ∧
    (Nat.repeat inc i j0) = counterBlock j0 i) ∧
  (∀ j0 : Wide, j0.toNat % 2 ^ 32 = 2 ^ 32 - 1 →
    inc j0 ≠ j0.extractLsb' 32 96 ++ (j0.extractLsb' 0 32 + 1#32))

/-- R219: apart from ENCRYPT and DECRYPT, no command lets anything of the session's secrets out: two states that differ in
KEYLEN, KEY, HSUB, J0 and CTR alone give the same response and the same requests; and ENCRYPT and DECRYPT do too on a
session that is not READY. -/
def Obligations.SecretsReachNoOtherResponse : Prop :=
  ∀ (i : Instr) (s t s' t' : State),
    t = { s with slot := { t.slot with valid := s.slot.valid, used := s.slot.used, tagsize := s.slot.tagsize } } →
    (∀ a b, (i = .encrypt a b ∨ i = .decrypt a b) → s.slot.sessionState ≠ .ready) →
    exec i s = .next s' → exec i t = .next t' →
    s'.responses = t'.responses ∧ s'.requests = t'.requests ∧ s'.phase = t'.phase
end

