-- ==== Sys2Proof/Laws/Bytes.lean ====
section
/-! SUPPORT. The laws of the byte-order functions (spec/00_scope.md R11, R12): lengths, and that `beBytes` and `beVal` are inverse to each
other on their ranges. -/

namespace Sys2Proof

@[simp] theorem beBytes_zero (v : Nat) : beBytes 0 v = [] := rfl

@[simp] theorem beVal_nil : beVal [] = 0 := rfl

@[simp] theorem beVal_cons (b : Byte) (s : ByteString) :
    beVal (b :: s) = b.toNat * 256 ^ s.length + beVal s := rfl

@[simp] theorem beBytes_length (n v : Nat) : (beBytes n v).length = n := by
  induction n with
  | zero => rfl
  | succ n ih => simp [beBytes, ih]

/-- Only the value mod 256^n enters an n-byte encoding. -/
theorem beBytes_mod (n m v : Nat) (h : n ≤ m) : beBytes n (v % 256 ^ m) = beBytes n v := by
  induction n with
  | zero => rfl
  | succ n ih =>
    have hm : 256 ^ m = 256 ^ n * (256 * 256 ^ (m - n - 1)) := by
      rw [← pow_succ', ← pow_add]; congr 1; omega
    have : v % 256 ^ m / 256 ^ n % 2 ^ 8 = v / 256 ^ n % 2 ^ 8 := by
      rw [hm, Nat.mod_mul_right_div_self, show (2 : Nat) ^ 8 = 256 from rfl, Nat.mod_mul_right_mod]
    simp only [beBytes, ih (by omega)]
    congr 1
    apply BitVec.eq_of_toNat_eq
    simpa using this

theorem beVal_lt (s : ByteString) : beVal s < 256 ^ s.length := by
  induction s with
  | nil => simp
  | cons b s ih =>
    have hb : b.toNat < 256 := b.isLt
    calc b.toNat * 256 ^ s.length + beVal s < b.toNat * 256 ^ s.length + 256 ^ s.length := by omega
      _ = (b.toNat + 1) * 256 ^ s.length := by ring
      _ ≤ 256 * 256 ^ s.length := Nat.mul_le_mul_right _ hb
      _ = 256 ^ (b :: s).length := by simp [pow_succ']

theorem beVal_beBytes (n v : Nat) : beVal (beBytes n v) = v % 256 ^ n := by
  induction n with
  | zero => simp [Nat.mod_one]
  | succ n ih =>
    simp only [beBytes, beVal_cons, beBytes_length, ih, BitVec.toNat_ofNat]
    rw [show (2 : Nat) ^ 8 = 256 from rfl, pow_succ, Nat.mod_mul]
    ring

theorem beBytes_beVal (s : ByteString) : beBytes s.length (beVal s) = s := by
  induction s with
  | nil => rfl
  | cons b s ih =>
    have hlt := beVal_lt s
    have hpos : 0 < 256 ^ s.length := by positivity
    simp only [List.length_cons, beBytes, beVal_cons]
    have h1 : (b.toNat * 256 ^ s.length + beVal s) / 256 ^ s.length = b.toNat := by
      rw [Nat.add_comm, Nat.add_mul_div_right _ _ hpos, Nat.div_eq_of_lt hlt]; omega
    have h2 : beBytes s.length (b.toNat * 256 ^ s.length + beVal s) = s := by
      rw [← beBytes_mod _ s.length _ le_rfl, Nat.mul_add_mod', beBytes_mod _ _ _ le_rfl, ih]
    simp [h1, h2]

theorem beVal_append (a b : ByteString) : beVal (a ++ b) = beVal a * 256 ^ b.length + beVal b := by
  induction a with
  | nil => simp
  | cons x a ih => simp only [List.cons_append, beVal_cons, ih, List.length_append, pow_add]; ring

/-- The bytes of a number cut in two. -/
theorem beBytes_append (n m v : Nat) : beBytes (n + m) v = beBytes n (v / 256 ^ m) ++ beBytes m v := by
  induction n with
  | zero => simp
  | succ n ih =>
    rw [Nat.add_right_comm]
    simp only [beBytes, ih, List.cons_append]
    rw [Nat.div_div_eq_div_mul, ← pow_add, Nat.add_comm m n]

@[simp] theorem be16_length (v : Wide) : (be16 v).length = 16 := by simp [be16]

/-- FromBytes(ToBytes(w)) = w (R102). -/
@[simp] theorem val_be16 (v : Wide) : val (be16 v) = v := by
  apply BitVec.eq_of_toNat_eq
  have := v.isLt
  simp only [val, be16, beVal_beBytes, BitVec.toNat_ofNat]
  rw [show (256 : Nat) ^ 16 = 2 ^ 128 by norm_num, Nat.mod_mod, Nat.mod_eq_of_lt this]

/-- ToBytes(FromBytes(b)) = b for every Block b (R102). -/
theorem be16_val (b : ByteString) (h : b.length = 16) : be16 (val b) = b := by
  have hlt := beVal_lt b
  rw [h] at hlt
  have : beBytes 16 (beVal b) = b := by simpa [h] using beBytes_beVal b
  simp only [be16, val, BitVec.toNat_ofNat]
  rw [Nat.mod_eq_of_lt (by simpa using hlt), this]

theorem be16_injective {v w : Wide} (h : be16 v = be16 w) : v = w := by
  rw [← val_be16 v, h, val_be16]

@[simp] theorem zeros_length (n : Nat) : (zeros n).length = n := by simp [zeros]

@[simp] theorem beVal_zeros (n : Nat) : beVal (zeros n) = 0 := by
  induction n with
  | zero => rfl
  | succ n ih => simpa [zeros, List.replicate_succ] using ih

@[simp] theorem xorBytes_length (a b : ByteString) : (xorBytes a b).length = min a.length b.length := by
  simp [xorBytes]

/-- Xor with the same bytes is its own inverse (R163). -/
theorem xorBytes_xorBytes (a b : ByteString) (h : a.length ≤ b.length) : xorBytes (xorBytes a b) b = a := by
  induction a generalizing b with
  | nil => simp [xorBytes]
  | cons x a ih =>
    cases b with
    | nil => simp at h
    | cons y b =>
      have := ih b (by simpa using h)
      simp only [xorBytes, List.zipWith_cons_cons] at this ⊢
      rw [this, BitVec.xor_assoc, BitVec.xor_self, BitVec.xor_zero]

end Sys2Proof
end

