-- ==== Sys2Proof/Laws/Decode.lean ====
section
/-! SUPPORT. What the field readers of the decoder do (spec/30_encoding.md R74): each reads back what the encoder wrote and leaves the rest. -/

namespace Sys2Proof

/-- MAX_LEN's bounds (R9, D17). -/
theorem maxLen_bounds : 32 ≤ Config.maxLen ∧ Config.maxLen ≤ 2 ^ 61 - 1 := by
  unfold Config.maxLen
  have := Nat.mod_lt Config.maxLenDraw (show 0 < 2 ^ 61 - 32 by norm_num)
  omega

/-- A string that fits has a length that 8 bytes carry (R71). -/
theorem StrFits.length_lt {s : ByteString} (h : StrFits s) : s.length < 2 ^ 64 := by
  have := maxLen_bounds.2
  unfold StrFits at h
  omega

theorem readField_blk (v : Wide) (rest : ByteString) : readField .blk (be16 v ++ rest) = some (.blk v, rest) := by
  simp [readField]

theorem readField_u64 (v : Half) (rest : ByteString) :
    readField .u64 (beBytes 8 v.toNat ++ rest) = some (.u64 v, rest) := by
  have := v.isLt
  simp [readField, beVal_beBytes, Nat.mod_eq_of_lt this]

theorem readField_u8 (v : Byte) (rest : ByteString) : readField .u8 ([v] ++ rest) = some (.u8 v, rest) := rfl

theorem readField_str (s rest : ByteString) (h : StrFits s) :
    readField .str (beBytes 8 s.length ++ s ++ rest) = some (.str s, rest) := by
  have hl : s.length % 18446744073709551616 = s.length := Nat.mod_eq_of_lt h.length_lt
  have h' : s.length ≤ Config.maxLen := h
  simp [readField, beVal_beBytes, hl, h']

/-- An operand a field can carry (R55): only a string has a bound. -/
def Operand.Fits : Operand → Prop
  | .blk _ => True
  | .u64 _ => True
  | .u8 _ => True
  | .str s => StrFits s

/-- One field, whatever its type, reads back as the value written. -/
theorem readField_bytes (v : Operand) (rest : ByteString) (h : v.Fits) :
    readField v.type (v.bytes ++ rest) = some (v, rest) := by
  cases v with
  | blk v => exact readField_blk v rest
  | u64 v => exact readField_u64 v rest
  | u8 v => exact readField_u8 v rest
  | str s => exact readField_str s rest h

end Sys2Proof
end

