-- ==== Sys2Proof/Laws/State.lean ====
section
/-! SUPPORT. What each named update of State does to each field: one lemma per field, true by rfl, so that no later proof unfolds a
record update. -/

namespace Sys2Proof.Machine

section Respond
variable (s : State) (r : ByteString)
@[simp] theorem respond_slot : (s.respond r).slot = s.slot := rfl
@[simp] theorem respond_phase : (s.respond r).phase = s.phase := rfl
@[simp] theorem respond_inputs : (s.respond r).inputs = s.inputs := rfl
@[simp] theorem respond_draws : (s.respond r).draws = s.draws := rfl
@[simp] theorem respond_points : (s.respond r).points = s.points := rfl
@[simp] theorem respond_requests : (s.respond r).requests = s.requests := rfl
@[simp] theorem respond_responses : (s.respond r).responses = s.responses ++ [r] := rfl
end Respond

section Issue
variable (s : State) (k b : ByteString)
@[simp] theorem issue_slot : (s.issue k b).slot = s.slot := rfl
@[simp] theorem issue_phase : (s.issue k b).phase = s.phase := rfl
@[simp] theorem issue_inputs : (s.issue k b).inputs = s.inputs := rfl
@[simp] theorem issue_draws : (s.issue k b).draws = s.draws.drop 1 := rfl
@[simp] theorem issue_points : (s.issue k b).points = s.points := rfl
@[simp] theorem issue_requests : (s.issue k b).requests = s.requests ++ [{ key := k, block := b }] := rfl
@[simp] theorem issue_responses : (s.issue k b).responses = s.responses := rfl
end Issue

section Await
variable (s : State) (k b : ByteString)
@[simp] theorem await_slot : (s.await k b).slot = s.slot := rfl
@[simp] theorem await_phase : (s.await k b).phase = .waiting { key := k, block := b } := rfl
@[simp] theorem await_inputs : (s.await k b).inputs = s.inputs := rfl
@[simp] theorem await_draws : (s.await k b).draws = s.draws := rfl
@[simp] theorem await_points : (s.await k b).points = s.points := rfl
@[simp] theorem await_requests : (s.await k b).requests = s.requests := rfl
@[simp] theorem await_responses : (s.await k b).responses = s.responses := rfl
end Await

section Scrub
variable (s : State)
@[simp] theorem scrub_slot : s.scrub.slot = Slot.empty := rfl
@[simp] theorem scrub_phase : s.scrub.phase = s.phase := rfl
@[simp] theorem scrub_inputs : s.scrub.inputs = s.inputs := rfl
@[simp] theorem scrub_draws : s.scrub.draws = s.draws := rfl
@[simp] theorem scrub_points : s.scrub.points = s.points := rfl
@[simp] theorem scrub_requests : s.scrub.requests = s.requests := rfl
@[simp] theorem scrub_responses : s.scrub.responses = s.responses := rfl
end Scrub

section Reset
variable (s : State)
@[simp] theorem applyReset_slot : s.applyReset.slot = Slot.empty := rfl
@[simp] theorem applyReset_phase : s.applyReset.phase = .resetting := rfl
@[simp] theorem applyReset_inputs : s.applyReset.inputs = s.inputs := rfl
@[simp] theorem applyReset_draws : s.applyReset.draws = s.draws := rfl
@[simp] theorem applyReset_points : s.applyReset.points = s.points := rfl
@[simp] theorem applyReset_requests : s.applyReset.requests = s.requests := rfl
@[simp] theorem applyReset_responses : s.applyReset.responses = s.responses := rfl
end Reset

section Spend
variable (s : State)
@[simp] theorem spend_slot : s.spend.slot = { s.slot with used := true } := rfl
@[simp] theorem spend_phase : s.spend.phase = s.phase := rfl
@[simp] theorem spend_inputs : s.spend.inputs = s.inputs := rfl
@[simp] theorem spend_draws : s.spend.draws = s.draws := rfl
@[simp] theorem spend_points : s.spend.points = s.points := rfl
@[simp] theorem spend_requests : s.spend.requests = s.requests := rfl
@[simp] theorem spend_responses : s.spend.responses = s.responses := rfl
end Spend

section AdvanceCtr
variable (s : State)
@[simp] theorem advanceCtr_slot : s.advanceCtr.slot = { s.slot with ctr := inc s.slot.ctr } := rfl
@[simp] theorem advanceCtr_phase : s.advanceCtr.phase = s.phase := rfl
@[simp] theorem advanceCtr_inputs : s.advanceCtr.inputs = s.inputs := rfl
@[simp] theorem advanceCtr_draws : s.advanceCtr.draws = s.draws := rfl
@[simp] theorem advanceCtr_points : s.advanceCtr.points = s.points := rfl
@[simp] theorem advanceCtr_requests : s.advanceCtr.requests = s.requests := rfl
@[simp] theorem advanceCtr_responses : s.advanceCtr.responses = s.responses := rfl
end AdvanceCtr

section LoadKey
variable (s : State) (key : ByteString) (tagSize : Byte) (h : Wide)
@[simp] theorem loadKey_slot : (s.loadKey key tagSize h).slot =
    { s.slot with key := keyRegister key, keylen := BitVec.ofNat 6 key.length, tagsize := tagSize.setWidth 5, hsub := h } := rfl
@[simp] theorem loadKey_phase : (s.loadKey key tagSize h).phase = s.phase := rfl
@[simp] theorem loadKey_inputs : (s.loadKey key tagSize h).inputs = s.inputs := rfl
@[simp] theorem loadKey_draws : (s.loadKey key tagSize h).draws = s.draws := rfl
@[simp] theorem loadKey_points : (s.loadKey key tagSize h).points = s.points := rfl
@[simp] theorem loadKey_requests : (s.loadKey key tagSize h).requests = s.requests := rfl
@[simp] theorem loadKey_responses : (s.loadKey key tagSize h).responses = s.responses := rfl
end LoadKey

section OpenSession
variable (s : State) (nonce : ByteString)
@[simp] theorem openSession_slot : (s.openSession nonce).slot =
    { s.slot with j0 := deriveJ0 s.slot.hsub nonce, ctr := deriveJ0 s.slot.hsub nonce, valid := true } := rfl
@[simp] theorem openSession_phase : (s.openSession nonce).phase = s.phase := rfl
@[simp] theorem openSession_inputs : (s.openSession nonce).inputs = s.inputs := rfl
@[simp] theorem openSession_draws : (s.openSession nonce).draws = s.draws := rfl
@[simp] theorem openSession_points : (s.openSession nonce).points = s.points := rfl
@[simp] theorem openSession_requests : (s.openSession nonce).requests = s.requests := rfl
@[simp] theorem openSession_responses : (s.openSession nonce).responses = s.responses := rfl
end OpenSession

end Sys2Proof.Machine
end

