-- ==== Sys2Proof/Laws/Ops.lean ====
section
/-! SUPPORT. What each shared operation can do, said once (spec/42_gcm_engine.md R160, spec/60_exceptions.md R214). -/

namespace Sys2Proof.Machine

/-- Only `points` decides CIPHER. -/
theorem cipher_congr {s t : State} (h : s.points = t.points) (k b : ByteString) : s.cipher k b = t.cipher k b := by
  simp [State.cipher, h]

@[simp] theorem issue_cipher (s : State) (k b k' b' : ByteString) : (s.issue k b).cipher k' b' = s.cipher k' b' :=
  cipher_congr rfl _ _

@[simp] theorem spend_cipher (s : State) (k b : ByteString) : s.spend.cipher k b = s.cipher k b :=
  cipher_congr rfl _ _

@[simp] theorem scrub_cipher (s : State) (k b : ByteString) : s.scrub.cipher k b = s.cipher k b :=
  cipher_congr rfl _ _

@[simp] theorem advanceCtr_cipher (s : State) (k b : ByteString) : s.advanceCtr.cipher k b = s.cipher k b :=
  cipher_congr rfl _ _

/-- The draws of a state depend on the list of draws and on how many requests were made. -/
theorem drawAt_congr {s t : State} (hd : s.draws = t.draws) (hr : s.requests.length = t.requests.length) (i : Nat) :
    s.drawAt i = t.drawAt i := by
  simp [State.drawAt, hd, hr]

/-- After a request the next draw is the one that came after it. -/
@[simp] theorem issue_drawAt (s : State) (k b : ByteString) (i : Nat) : (s.issue k b).drawAt i = s.drawAt (i + 1) := by
  simp only [State.drawAt, issue_draws, issue_requests, List.getElem?_drop, List.length_append, List.length_cons,
    List.length_nil, Nat.add_comm 1 i]
  rw [show s.requests.length + (0 + 1) + i = s.requests.length + (i + 1) by omega]

@[simp] theorem spend_drawAt (s : State) (i : Nat) : s.spend.drawAt i = s.drawAt i := drawAt_congr rfl rfl i

@[simp] theorem scrub_drawAt (s : State) (i : Nat) : s.scrub.drawAt i = s.drawAt i := drawAt_congr rfl rfl i

@[simp] theorem advanceCtr_drawAt (s : State) (i : Nat) : s.advanceCtr.drawAt i = s.drawAt i := drawAt_congr rfl rfl i

@[simp] theorem bind_done {α β : Type} (a : α) (s : State) (f : α → State → Call β) : (Call.done a s).bind f = f a s := rfl

@[simp] theorem bind_raised {α β : Type} (e : CommandError) (s : State) (f : α → State → Call β) :
    (Call.raised e s).bind f = .raised e s := rfl

@[simp] theorem bind_waits {α β : Type} (s : State) (f : α → State → Call β) : (Call.waits s).bind f = .waits s := rfl

@[simp] theorem bind_broken {α β : Type} (r : Fault) (f : α → State → Call β) : (Call.broken r).bind f = .broken r := rfl

@[simp] theorem finish_done (p : Payload) (s : State) : (Call.done p s).finish = .next (s.respond (okResponse p)) := rfl

@[simp] theorem finish_raised (e : CommandError) (s : State) :
    (Call.raised e s : Call Payload).finish = .next (s.respond (errorResponse e)) := rfl

@[simp] theorem finish_waits (s : State) : (Call.waits s : Call Payload).finish = .next s := rfl

@[simp] theorem finish_broken (r : Fault) : (Call.broken r : Call Payload).finish = .fault r := rfl

/-- What CALL_E can do with a legal request: answer, raise BackendError, or wait; the request is issued each time. -/
theorem callE_legal (k b : ByteString) (s : State) (hb : b.length = 16) (hk : k.length ∈ keyLengths) :
    (s.drawAt 0 = .answered ∧ callE k b s = .done (s.cipher k b) (s.issue k b)) ∨
    (∃ code, s.drawAt 0 = .failed code ∧ callE k b s = .raised (.backendError code) (s.issue k b)) ∨
    (s.drawAt 0 = .silent ∧ callE k b s = .waits ((s.issue k b).await k b)) := by
  unfold callE
  rw [if_neg (by simpa using hb), if_neg (by simpa using hk)]
  cases h : s.drawAt 0 with
  | answered => exact .inl ⟨rfl, rfl⟩
  | failed code => exact .inr (.inl ⟨code, rfl, rfl⟩)
  | silent => exact .inr (.inr ⟨rfl, rfl⟩)

theorem callE_answered {k b : ByteString} {s : State} (hb : b.length = 16) (hk : k.length ∈ keyLengths)
    (hd : s.drawAt 0 = .answered) : callE k b s = .done (s.cipher k b) (s.issue k b) := by
  unfold callE; rw [if_neg (by simpa using hb), if_neg (by simpa using hk), hd]

theorem callE_failed {k b : ByteString} {s : State} {code : BitVec 32} (hb : b.length = 16) (hk : k.length ∈ keyLengths)
    (hd : s.drawAt 0 = .failed code) : callE k b s = .raised (.backendError code) (s.issue k b) := by
  unfold callE; rw [if_neg (by simpa using hb), if_neg (by simpa using hk), hd]

theorem callE_silent {k b : ByteString} {s : State} (hb : b.length = 16) (hk : k.length ∈ keyLengths)
    (hd : s.drawAt 0 = .silent) : callE k b s = .waits ((s.issue k b).await k b) := by
  unfold callE; rw [if_neg (by simpa using hb), if_neg (by simpa using hk), hd]

/-- CALL_E breaks the model only on a request outside its contract. -/
theorem callE_broken {k b : ByteString} {s : State} {r : Fault} (h : callE k b s = .broken r) :
    (r = .invalidBlockSize ∧ b.length ≠ 16) ∨ (r = .invalidCipherKey ∧ k.length ∉ keyLengths) := by
  unfold callE at h
  split at h
  · cases h; exact .inl ⟨rfl, ‹_›⟩
  · split at h
    · cases h; exact .inr ⟨rfl, ‹_›⟩
    · split at h <;> cases h

/-- The bytes of an error response never start with OK (R79). -/
theorem errorResponse_ne_ok (e : CommandError) : (errorResponse e).head? ≠ some 0x00 := by
  cases e <;> simp [errorResponse, CommandError.status]

/-- The KEY register's first |k| bytes are k (R26). -/
theorem take_keyRegister (k : ByteString) (h : k.length ≤ 32) :
    (beBytes 32 (keyRegister k).toNat).take k.length = k := by
  have hl : (k ++ zeros (32 - k.length)).length = 32 := by simp; omega
  have hlt := beVal_lt (k ++ zeros (32 - k.length))
  have hb := beBytes_beVal (k ++ zeros (32 - k.length))
  rw [hl] at hlt hb
  rw [keyRegister, BitVec.toNat_ofNat, Nat.mod_eq_of_lt (by simpa using hlt), hb]
  simp

end Sys2Proof.Machine
end

