-- ==== Sys2Proof/Laws/Engine.lean ====
section
/-! SUPPORT. What the parts of the session commands can do to the state, said once (spec/42_gcm_engine.md R163, R166, R167, spec/60_exceptions.md
R214): they write CTR and nothing else of the slot, they add requests and use one draw for each, they never respond, and
they leave the outside alone. -/

namespace Sys2Proof.Machine

/-- t is s after some cipher requests: only CTR of the slot may differ, and each request used one draw. -/
structure State.Extends (s t : State) : Prop where
  slot : t.slot = { s.slot with ctr := t.slot.ctr }
  inputs : t.inputs = s.inputs
  points : t.points = s.points
  responses : t.responses = s.responses
  requests : ∃ rs : List Request, t.requests = s.requests ++ rs ∧ t.draws = s.draws.drop rs.length ∧
    ∀ r ∈ rs, r.key.length ∈ keyLengths ∧ r.block.length = 16

/-- The errors a part of a session command can raise: a BackendError and the tag check's. -/
def CommandError.FromEngine (e : CommandError) : Prop := (∃ code, e = .backendError code) ∨ e = .authenticationFailure

/-- What a part of a session command started in s can come to. -/
def Call.From {α : Type} (s : State) : Call α → Prop
  | .done _ t => s.Extends t ∧ t.phase = s.phase
  | .raised e t => s.Extends t ∧ t.phase = s.phase ∧ e.FromEngine
  | .waits t => s.Extends t ∧ ∃ r, t.phase = .waiting r ∧ t.requests.getLast? = some r
  | .broken _ => True

theorem State.Extends.refl (s : State) : s.Extends s := ⟨rfl, rfl, rfl, rfl, [], by simp⟩

theorem State.Extends.trans {s t u : State} (h : s.Extends t) (h' : t.Extends u) : s.Extends u := by
  obtain ⟨rs, h1, h2, h3⟩ := h.requests
  obtain ⟨rs', h1', h2', h3'⟩ := h'.requests
  refine ⟨by rw [h'.slot, h.slot], h'.inputs.trans h.inputs, h'.points.trans h.points,
    h'.responses.trans h.responses, rs ++ rs', by rw [h1', h1, List.append_assoc], ?_, ?_⟩
  · rw [h2', h2, List.drop_drop, List.length_append]
  · intro r hr
    exact (List.mem_append.1 hr).elim (h3 r) (h3' r)

theorem State.Extends.advanceCtr (s : State) : s.Extends s.advanceCtr := ⟨rfl, rfl, rfl, rfl, [], by simp⟩

theorem State.Extends.issue {k b : ByteString} (s : State) (hk : k.length ∈ keyLengths) (hb : b.length = 16) :
    s.Extends (s.issue k b) :=
  ⟨rfl, rfl, rfl, rfl, [{ key := k, block := b }], rfl, rfl, by simpa using ⟨hk, hb⟩⟩

/-- A part that started later came from the earlier state too. -/
theorem Call.From.after {α : Type} {s t : State} {c : Call α} (h : s.Extends t) (hp : t.phase = s.phase)
    (hc : c.From t) : c.From s := by
  cases c with
  | done a u => exact ⟨h.trans hc.1, hc.2.trans hp⟩
  | raised e u => exact ⟨h.trans hc.1, hc.2.1.trans hp, hc.2.2⟩
  | waits u => exact ⟨h.trans hc.1, hc.2⟩
  | broken r => exact trivial

/-- One part after another: what holds of each holds of both. -/
theorem Call.From.bind {α β : Type} {s : State} {c : Call α} {f : α → State → Call β} (hc : c.From s)
    (hf : ∀ a t, s.Extends t → (f a t).From t) : (c.bind f).From s := by
  cases c with
  | done a t => exact (hf a t hc.1).after hc.1 hc.2
  | raised e t => exact hc
  | waits t => exact hc
  | broken r => exact trivial

/-- CALL_E (R160). -/
theorem callE_from (k b : ByteString) (s : State) : (callE k b s).From s := by
  by_cases hb : b.length = 16
  · by_cases hk : k.length ∈ keyLengths
    · have hi := State.Extends.issue s hk hb
      rcases callE_legal k b s hb hk with ⟨-, h⟩ | ⟨code, -, h⟩ | ⟨-, h⟩ <;> rw [h]
      · exact ⟨hi, rfl⟩
      · exact ⟨hi, rfl, .inl ⟨code, rfl⟩⟩
      · exact ⟨⟨hi.slot, hi.inputs, hi.points, hi.responses, hi.requests⟩, { key := k, block := b }, rfl, by simp⟩
    · unfold callE; rw [if_neg (by simpa using hb), if_pos hk]; trivial
  · unfold callE; rw [if_pos hb]; trivial

/-- The keystream's loop (R163). -/
theorem keystreamBlocks_from (k : ByteString) (bs : List ByteString) (s : State) : (keystreamBlocks k bs s).From s := by
  induction bs generalizing s with
  | nil => exact ⟨State.Extends.refl s, rfl⟩
  | cons b bs ih =>
    refine Call.From.after (State.Extends.advanceCtr s) rfl ((callE_from k _ _).bind fun out t _ => ?_)
    exact (ih t).bind fun rest u _ => ⟨State.Extends.refl u, rfl⟩

/-- Keystream (R163). -/
theorem keystream_from (k d : ByteString) (s : State) : (keystream k d s).From s :=
  (keystreamBlocks_from k _ s).bind fun _ t _ => ⟨State.Extends.refl t, rfl⟩

/-- The first two requests of ENCRYPT and DECRYPT (R169). -/
theorem hashKeyAndMask_from (k : ByteString) (s : State) : (hashKeyAndMask k s).From s :=
  (callE_from k _ s).bind fun _ t _ => (callE_from k _ t).bind fun _ u _ => ⟨State.Extends.refl u, rfl⟩

/-- ENCRYPT past its checks (R166). -/
theorem encryptBody_from (aad pt : ByteString) (s : State) : (encryptBody aad pt s).From s :=
  (hashKeyAndMask_from _ s).bind fun _ t _ => (keystream_from _ _ t).bind fun _ u _ => ⟨State.Extends.refl u, rfl⟩

/-- DECRYPT past its checks (R167). -/
theorem decryptBody_from (aad x : ByteString) (s : State) : (decryptBody aad x s).From s := by
  unfold decryptBody
  split
  · exact ⟨State.Extends.refl s, rfl, .inr rfl⟩
  · refine (hashKeyAndMask_from _ s).bind fun hm t _ => ?_
    unfold openText
    split
    · exact (keystream_from _ _ t).bind fun _ u _ => ⟨State.Extends.refl u, rfl⟩
    · exact ⟨State.Extends.refl t, rfl, .inr rfl⟩

end Sys2Proof.Machine
end

