-- ==== Sys2Proof/Laws/Field.lean ====
section
/-! SUPPORT. Small laws of padding and of the multiplier's loop (spec/41_field.md R130, R134). -/

namespace Sys2Proof.Machine

@[simp] theorem blocks16_length (n : Nat) (p : ByteString) : (blocks16 n p).length = n := by
  induction n generalizing p with
  | zero => rfl
  | succ n ih => simp [blocks16, ih]

/-- A block that lies inside the string has 16 bytes. -/
theorem blocks16_block_length {n : Nat} {p b : ByteString} (h : 16 * n ≤ p.length) (hb : b ∈ blocks16 n p) :
    b.length = 16 := by
  induction n generalizing p with
  | zero => simp [blocks16] at hb
  | succ n ih =>
    rcases List.mem_cons.1 hb with rfl | hb
    · simp; omega
    · exact ih (by simp; omega) hb

/-- The blocks put together again. -/
theorem blocks16_flatten {n : Nat} {p : ByteString} (h : p.length = 16 * n) : (blocks16 n p).flatten = p := by
  induction n generalizing p with
  | zero => simpa [blocks16] using (List.length_eq_zero_iff.1 (by simpa using h)).symm
  | succ n ih => rw [blocks16, List.flatten_cons, ih (by simp; omega), List.take_append_drop]

/-- The padded string fills whole blocks. -/
theorem padded_length_mod (s : ByteString) : (padded s).length % 16 = 0 := by
  unfold padded
  split
  · rfl
  · simp; omega

@[simp] theorem pad16_nil : pad16 [] = [zeros 16] := rfl

@[simp] theorem gfLoop_zero (y z v : Wide) : gfLoop y 0 z v = z := rfl

@[simp] theorem gfLoop_succ (y : Wide) (n : Nat) (z v : Wide) :
    gfLoop y (n + 1) z v = gfLoop y n (if y.getLsbD n then wideXor z v else z) (gfShift v) := rfl

end Sys2Proof.Machine
end

