-- ==== Sys2Proof/Laws/PerInstr.lean ====
section
/-! SUPPORT. Statements about every command as syntax, one lemma per constructor of Instr. -/

namespace Sys2Proof.Laws.Layout

/-- The opcode of a command is in the opcode map, with the format its operand fields have (spec/30_encoding.md R72, R73), and
the fields assemble to that command again. -/
def Statement (i : Instr) : Prop :=
  formatOf (opcodeOf i) = some ((operandsOf i).map Operand.type) ∧ assemble (opcodeOf i) (operandsOf i) = some i

theorem wiFromBytes (s : ByteString) : Statement (.wiFromBytes s) := ⟨rfl, rfl⟩
theorem wiFromHalves (hi lo : Half) : Statement (.wiFromHalves hi lo) := ⟨rfl, rfl⟩
theorem wiToBytes (a : Wide) : Statement (.wiToBytes a) := ⟨rfl, rfl⟩
theorem wiXor (a b : Wide) : Statement (.wiXor a b) := ⟨rfl, rfl⟩
theorem wiAnd (a b : Wide) : Statement (.wiAnd a b) := ⟨rfl, rfl⟩
theorem wiShr1 (a : Wide) : Statement (.wiShr1 a) := ⟨rfl, rfl⟩
theorem wiInc (a : Wide) : Statement (.wiInc a) := ⟨rfl, rfl⟩
theorem wiEq (a b : Wide) : Statement (.wiEq a b) := ⟨rfl, rfl⟩
theorem gfMul (x y : Wide) : Statement (.gfMul x y) := ⟨rfl, rfl⟩
theorem ghash (init h : Wide) (aad c : ByteString) : Statement (.ghash init h aad c) := ⟨rfl, rfl⟩
theorem tsEqual (a b : ByteString) : Statement (.tsEqual a b) := ⟨rfl, rfl⟩
theorem sessionNew (key nonce : ByteString) (tagSize : Byte) : Statement (.sessionNew key nonce tagSize) := ⟨rfl, rfl⟩
theorem encrypt (aad plaintext : ByteString) : Statement (.encrypt aad plaintext) := ⟨rfl, rfl⟩
theorem decrypt (aad ciphertextWithTag : ByteString) : Statement (.decrypt aad ciphertextWithTag) := ⟨rfl, rfl⟩
theorem sessionClear : Statement .sessionClear := ⟨rfl, rfl⟩

end Sys2Proof.Laws.Layout
end

