-- ==== Sys2Proof/Tests/Slice0.lean ====
section
/-! SUPPORT. The model's own tests: ill-formed commands, frames written out from spec/30_encoding.md, vectors of spec/95_test_vectors.md, and
for each obligation with hypotheses a state and operands that meet them. -/

namespace Sys2Proof.Tests

open Sys2Proof Sys2Proof.Machine

section
set_option Elab.async false

/-! ### Helpers -/

def resp : Result → List ByteString
  | .next s => s.responses
  | .fault _ => []
  | .refused _ => []

def reqs : Result → List Request
  | .next s => s.requests
  | .fault _ => []
  | .refused _ => []

def slotAfter : Result → Slot
  | .next s => s.slot
  | .fault _ => Slot.empty
  | .refused _ => Slot.empty

def stateAfter : Result → State
  | .next s => s
  | .fault _ => State.reset
  | .refused _ => State.reset

def isNext : Result → Bool
  | .next _ => true
  | .fault _ => false
  | .refused _ => false

theorem next_of_isNext {r : Result} (h : isNext r = true) : r = .next (stateAfter r) := by
  cases r <;> first | rfl | cases h

/-- A string one byte longer than MAX_LEN. -/
def tooLong : ByteString := List.replicate (Config.maxLen + 1) 0

/-- A string of exactly MAX_LEN bytes. -/
def longest : ByteString := List.replicate Config.maxLen 0

theorem fits_of_le {s : ByteString} (h : s.length ≤ 32) : StrFits s := le_trans h maxLen_bounds.1

theorem longest_fits : StrFits longest := by simp [longest, StrFits]

/-- AES-128 with the zero key at 0, 1 and 2 (spec/95_test_vectors.md T72, T96: the values the spec derives its vectors with). -/
def aesPoints : List CipherPoint :=
  [ { key := zeros 16, block := zeros 16, out := 0x66e94bd4ef8a2c3b884cfa59ca342b2e },
    { key := zeros 16, block := be16 1, out := 0x58e2fccefa7e3061367f1d57a4e7455a },
    { key := zeros 16, block := be16 2, out := 0x0388dace60b6a392f328c2b971b2fe78 } ]

/-- The core after reset, the cipher agent answering as the draws say. -/
def fresh (draws : List Draw) : State := { State.reset with draws := draws, points := aesPoints }

/-- A READY session of the zero key and the zero nonce. -/
def ready (tagsize : BitVec 5) (draws : List Draw) : State :=
  { fresh draws with slot := { valid := true, used := false, keylen := 16, key := 0, tagsize := tagsize,
                               hsub := 0x66e94bd4ef8a2c3b884cfa59ca342b2e, j0 := 1, ctr := 1 } }

/-- The same session SPENT. -/
def spent : State := { ready 16 [] with slot := { (ready 16 []).slot with used := true } }

/-- A core in a phase, with inputs to come. -/
def outside (p : Phase) (a : List Input) : State := { State.reset with phase := p, inputs := a }

/-- The request of SESSION_NEW with the zero key. -/
def hRequest : Request := { key := zeros 16, block := zeros 16 }

/-- The ciphertext and tag of T72. -/
def sealedZeros : ByteString := be16 0x0388dace60b6a392f328c2b971b2fe78 ++ be16 0xab6e47d42cec13bdf53a67b21257bddf

/-! ### WellFormed refuses a string longer than MAX_LEN, in every place a string can stand -/

theorem test_ill_formed_wiFromBytes : ¬ (Instr.wiFromBytes tooLong).WellFormed := by
  simp [Instr.WellFormed, StrFits, tooLong]

theorem test_ill_formed_ghash_aad : ¬ (Instr.ghash 0 0 tooLong []).WellFormed := by
  simp [Instr.WellFormed, StrFits, tooLong]

theorem test_ill_formed_ghash_c : ¬ (Instr.ghash 0 0 [] tooLong).WellFormed := by
  simp [Instr.WellFormed, StrFits, tooLong]

theorem test_ill_formed_tsEqual_a : ¬ (Instr.tsEqual tooLong []).WellFormed := by
  simp [Instr.WellFormed, StrFits, tooLong]

theorem test_ill_formed_tsEqual_b : ¬ (Instr.tsEqual [] tooLong).WellFormed := by
  simp [Instr.WellFormed, StrFits, tooLong]

theorem test_ill_formed_sessionNew_key : ¬ (Instr.sessionNew tooLong [] 16).WellFormed := by
  simp [Instr.WellFormed, StrFits, tooLong]

theorem test_ill_formed_sessionNew_nonce : ¬ (Instr.sessionNew [] tooLong 16).WellFormed := by
  simp [Instr.WellFormed, StrFits, tooLong]

theorem test_ill_formed_encrypt_aad : ¬ (Instr.encrypt tooLong []).WellFormed := by
  simp [Instr.WellFormed, StrFits, tooLong]

theorem test_ill_formed_encrypt_plaintext : ¬ (Instr.encrypt [] tooLong).WellFormed := by
  simp [Instr.WellFormed, StrFits, tooLong]

theorem test_ill_formed_decrypt_aad : ¬ (Instr.decrypt tooLong []).WellFormed := by
  simp [Instr.WellFormed, StrFits, tooLong]

theorem test_ill_formed_decrypt_input : ¬ (Instr.decrypt [] tooLong).WellFormed := by
  simp [Instr.WellFormed, StrFits, tooLong]

theorem test_longest_is_well_formed : (Instr.encrypt longest longest).WellFormed := ⟨longest_fits, longest_fits⟩

/-! ### Frames written out from R71 to R73, one for every constructor -/

theorem test_decode_wiFromBytes :
    decode [0x10, 0x00, 0x00, 0x00, 0x00, 0x00, 0x00, 0x00, 0x03, 0x01, 0x02, 0xfe] =
      .command (.wiFromBytes [0x01, 0x02, 0xfe]) := by decide +kernel

theorem test_decode_wiFromHalves :
    decode [0x11, 0x01, 0x23, 0x45, 0x67, 0x89, 0xab, 0xcd, 0xef, 0xfe, 0xdc, 0xba, 0x98, 0x76, 0x54, 0x32,
    0x10] =
      .command (.wiFromHalves 0x0123456789abcdef 0xfedcba9876543210) := by decide +kernel

theorem test_decode_wiToBytes :
    decode [0x12, 0x00, 0x01, 0x02, 0x03, 0x04, 0x05, 0x06, 0x07, 0x08, 0x09, 0x0a, 0x0b, 0x0c, 0x0d, 0x0e,
    0x0f] =
      .command (.wiToBytes 0x000102030405060708090a0b0c0d0e0f) := by decide +kernel

theorem test_decode_wiXor :
    decode [0x13, 0x00, 0x01, 0x02, 0x03, 0x04, 0x05, 0x06, 0x07, 0x08, 0x09, 0x0a, 0x0b, 0x0c, 0x0d, 0x0e,
    0x0f, 0xf0, 0xe0, 0xd0, 0xc0, 0xb0, 0xa0, 0x90, 0x80, 0x70, 0x60, 0x50, 0x40, 0x30, 0x20, 0x10,
    0x01] =
      .command (.wiXor 0x000102030405060708090a0b0c0d0e0f 0xf0e0d0c0b0a090807060504030201001) := by decide +kernel

theorem test_decode_wiAnd :
    decode [0x14, 0x00, 0x01, 0x02, 0x03, 0x04, 0x05, 0x06, 0x07, 0x08, 0x09, 0x0a, 0x0b, 0x0c, 0x0d, 0x0e,
    0x0f, 0xf0, 0xe0, 0xd0, 0xc0, 0xb0, 0xa0, 0x90, 0x80, 0x70, 0x60, 0x50, 0x40, 0x30, 0x20, 0x10,
    0x01] =
      .command (.wiAnd 0x000102030405060708090a0b0c0d0e0f 0xf0e0d0c0b0a090807060504030201001) := by decide +kernel

theorem test_decode_wiShr1 :
    decode [0x15, 0x00, 0x01, 0x02, 0x03, 0x04, 0x05, 0x06, 0x07, 0x08, 0x09, 0x0a, 0x0b, 0x0c, 0x0d, 0x0e,
    0x0f] =
      .command (.wiShr1 0x000102030405060708090a0b0c0d0e0f) := by decide +kernel

theorem test_decode_wiInc :
    decode [0x16, 0x00, 0x01, 0x02, 0x03, 0x04, 0x05, 0x06, 0x07, 0x08, 0x09, 0x0a, 0x0b, 0x0c, 0x0d, 0x0e,
    0x0f] =
      .command (.wiInc 0x000102030405060708090a0b0c0d0e0f) := by decide +kernel

theorem test_decode_wiEq :
    decode [0x17, 0x00, 0x01, 0x02, 0x03, 0x04, 0x05, 0x06, 0x07, 0x08, 0x09, 0x0a, 0x0b, 0x0c, 0x0d, 0x0e,
    0x0f, 0xf0, 0xe0, 0xd0, 0xc0, 0xb0, 0xa0, 0x90, 0x80, 0x70, 0x60, 0x50, 0x40, 0x30, 0x20, 0x10,
    0x01] =
      .command (.wiEq 0x000102030405060708090a0b0c0d0e0f 0xf0e0d0c0b0a090807060504030201001) := by decide +kernel

theorem test_decode_gfMul :
    decode [0x20, 0x00, 0x01, 0x02, 0x03, 0x04, 0x05, 0x06, 0x07, 0x08, 0x09, 0x0a, 0x0b, 0x0c, 0x0d, 0x0e,
    0x0f, 0xf0, 0xe0, 0xd0, 0xc0, 0xb0, 0xa0, 0x90, 0x80, 0x70, 0x60, 0x50, 0x40, 0x30, 0x20, 0x10,
    0x01] =
      .command (.gfMul 0x000102030405060708090a0b0c0d0e0f 0xf0e0d0c0b0a090807060504030201001) := by decide +kernel

theorem test_decode_ghash :
    decode [0x21, 0x00, 0x01, 0x02, 0x03, 0x04, 0x05, 0x06, 0x07, 0x08, 0x09, 0x0a, 0x0b, 0x0c, 0x0d, 0x0e,
    0x0f, 0xf0, 0xe0, 0xd0, 0xc0, 0xb0, 0xa0, 0x90, 0x80, 0x70, 0x60, 0x50, 0x40, 0x30, 0x20, 0x10,
    0x01, 0x00, 0x00, 0x00, 0x00, 0x00, 0x00, 0x00, 0x01, 0xaa, 0x00, 0x00, 0x00, 0x00, 0x00, 0x00,
    0x00, 0x02, 0xbb, 0xcc] =
      .command (.ghash 0x000102030405060708090a0b0c0d0e0f 0xf0e0d0c0b0a090807060504030201001 [0xaa] [0xbb, 0xcc]) := by decide +kernel

theorem test_decode_tsEqual :
    decode [0x30, 0x00, 0x00, 0x00, 0x00, 0x00, 0x00, 0x00, 0x04, 0xab, 0x6e, 0x47, 0xd4, 0x00, 0x00, 0x00,
    0x00, 0x00, 0x00, 0x00, 0x03, 0xab, 0x6e, 0x47] =
      .command (.tsEqual [0xab, 0x6e, 0x47, 0xd4] [0xab, 0x6e, 0x47]) := by decide +kernel

theorem test_decode_sessionNew :
    decode [0x40, 0x00, 0x00, 0x00, 0x00, 0x00, 0x00, 0x00, 0x10, 0x00, 0x01, 0x02, 0x03, 0x04, 0x05, 0x06,
    0x07, 0x08, 0x09, 0x0a, 0x0b, 0x0c, 0x0d, 0x0e, 0x0f, 0x00, 0x00, 0x00, 0x00, 0x00, 0x00, 0x00,
    0x01, 0x05, 0x0d] =
      .command (.sessionNew (be16 0x000102030405060708090a0b0c0d0e0f) [0x05] 13) := by decide +kernel

theorem test_decode_encrypt :
    decode [0x41, 0x00, 0x00, 0x00, 0x00, 0x00, 0x00, 0x00, 0x01, 0xaa, 0x00, 0x00, 0x00, 0x00, 0x00, 0x00,
    0x00, 0x02, 0xbb, 0xcc] =
      .command (.encrypt [0xaa] [0xbb, 0xcc]) := by decide +kernel

theorem test_decode_decrypt :
    decode [0x42, 0x00, 0x00, 0x00, 0x00, 0x00, 0x00, 0x00, 0x00, 0x00, 0x00, 0x00, 0x00, 0x00, 0x00, 0x00,
    0x01, 0xdd] =
      .command (.decrypt [] [0xdd]) := by decide +kernel

theorem test_decode_sessionClear :
    decode [0x43] =
      .command (.sessionClear) := by decide +kernel

/-- T54, T55, T58, T60: an empty frame is malformed; opcodes outside the map are illegal. -/
theorem test_decode_errors : decode [] = .malformedCommand ∧ decode [0x00] = .illegalCommand ∧
    decode [0x22] = .illegalCommand ∧ decode [0x44, 0x00] = .illegalCommand := by decide +kernel

/-- T64, T67, T68: short, with a string short of its length, with a trailing byte. -/
theorem test_decode_malformed : decode (0x12 :: zeros 8) = .malformedCommand ∧
    decode [0x30, 0, 0, 0, 0, 0, 0, 0, 1, 0xaa, 0, 0, 0, 0, 0, 0, 0, 2] = .malformedCommand ∧
    decode [0x43, 0x00] = .malformedCommand := by decide +kernel

/-- A table word is the opcode byte, every operand zero. -/
theorem test_table_words : decodeTableWord 8 0x43 = some .sessionClear ∧
    decodeTableWord 8 0x40 = some (.sessionNew [] [] 0) ∧ decodeTableWord 8 0x21 = some (.ghash 0 0 [] []) ∧
    decodeTableWord 8 0x44 = none := by decide +kernel

/-- The next step runs the instruction placed. -/
theorem test_fetch_word : resp (step (State.reset.withFetchWord 8 0x13)) = [0x00 :: zeros 16] ∧
    resp (step ((outside .resetting [.reset]).withFetchWord 8 0x41)) = [[0x07]] := by decide +kernel

/-! ### Vectors of spec/95_test_vectors.md -/

/-- T4: byte 16 is ignored. -/
theorem test_wiFromBytes_long : resp (exec (.wiFromBytes (be16 0x000102030405060708090a0b0c0d0e0f ++ [0x10])) State.reset) =
    [[0x00, 0x00, 0x01, 0x02, 0x03, 0x04, 0x05, 0x06, 0x07, 0x08, 0x09, 0x0a, 0x0b, 0x0c, 0x0d, 0x0e,
    0x0f]] := by decide +kernel

/-- T2: zero-extended on the left. -/
theorem test_wiFromBytes_short : resp (exec (.wiFromBytes [0x01, 0x02]) State.reset) =
    [[0x00, 0x00, 0x00, 0x00, 0x00, 0x00, 0x00, 0x00, 0x00, 0x00, 0x00, 0x00, 0x00, 0x00, 0x00, 0x01,
    0x02]] := by decide +kernel

/-- T7: hi is the high half. -/
theorem test_wiFromHalves_order : resp (exec (.wiFromHalves 0x0123456789abcdef 0xfedcba9876543210) State.reset) =
    [[0x00, 0x01, 0x23, 0x45, 0x67, 0x89, 0xab, 0xcd, 0xef, 0xfe, 0xdc, 0xba, 0x98, 0x76, 0x54, 0x32,
    0x10]] := by decide +kernel

/-- T8. -/
theorem test_wiToBytes_ones : resp (exec (.wiToBytes 0xffffffffffffffffffffffffffffffff) State.reset) =
    [[0x00, 0x00, 0x00, 0x00, 0x00, 0x00, 0x00, 0x00, 0x10, 0xff, 0xff, 0xff, 0xff, 0xff, 0xff, 0xff,
    0xff, 0xff, 0xff, 0xff, 0xff, 0xff, 0xff, 0xff, 0xff]] := by decide +kernel

/-- T11. -/
theorem test_wiXor_ones : resp (exec (.wiXor 0xffffffffffffffffffffffffffffffff 0x000102030405060708090a0b0c0d0e0f) State.reset) =
    [[0x00, 0xff, 0xfe, 0xfd, 0xfc, 0xfb, 0xfa, 0xf9, 0xf8, 0xf7, 0xf6, 0xf5, 0xf4, 0xf3, 0xf2, 0xf1,
    0xf0]] := by decide +kernel

/-- T12. -/
theorem test_wiAnd_ones : resp (exec (.wiAnd 0xffffffffffffffffffffffffffffffff 0x0388dace60b6a392f328c2b971b2fe78) State.reset) =
    [[0x00, 0x03, 0x88, 0xda, 0xce, 0x60, 0xb6, 0xa3, 0x92, 0xf3, 0x28, 0xc2, 0xb9, 0x71, 0xb2, 0xfe,
    0x78]] := by decide +kernel

/-- T15: bit 127 becomes 0. -/
theorem test_wiShr1_top : resp (exec (.wiShr1 0xffffffffffffffffffffffffffffffff) State.reset) =
    [[0x00, 0x7f, 0xff, 0xff, 0xff, 0xff, 0xff, 0xff, 0xff, 0xff, 0xff, 0xff, 0xff, 0xff, 0xff, 0xff,
    0xff]] := by decide +kernel

/-- T16: bit 0 of the high half moves to bit 63. -/
theorem test_wiShr1_carry : resp (exec (.wiShr1 0x00000000000000010000000000000000) State.reset) =
    [[0x00, 0x00, 0x00, 0x00, 0x00, 0x00, 0x00, 0x00, 0x00, 0x80, 0x00, 0x00, 0x00, 0x00, 0x00, 0x00,
    0x00]] := by decide +kernel

/-- T20. -/
theorem test_wiInc_wraps : resp (exec (.wiInc 0xffffffffffffffffffffffffffffffff) State.reset) =
    [[0x00, 0x00, 0x00, 0x00, 0x00, 0x00, 0x00, 0x00, 0x00, 0x00, 0x00, 0x00, 0x00, 0x00, 0x00, 0x00,
    0x00]] := by decide +kernel

/-- T22: the carry passes bit 32. -/
theorem test_wiInc_carry : resp (exec (.wiInc 0xcafebabefacedbaddecaf888ffffffff) State.reset) =
    [[0x00, 0xca, 0xfe, 0xba, 0xbe, 0xfa, 0xce, 0xdb, 0xad, 0xde, 0xca, 0xf8, 0x89, 0x00, 0x00, 0x00,
    0x00]] := by decide +kernel

/-- T26. -/
theorem test_wiEq_low_bit : resp (exec (.wiEq 0x66e94bd4ef8a2c3b884cfa59ca342b2e 0x66e94bd4ef8a2c3b884cfa59ca342b2f) State.reset) =
    [[0x00, 0x00]] := by decide +kernel

/-- T27. -/
theorem test_wiEq_top_bit : resp (exec (.wiEq 0 0x80000000000000000000000000000000) State.reset) =
    [[0x00, 0x00]] := by decide +kernel

/-- T31. -/
theorem test_gfMul_reduces : resp (exec (.gfMul 1 1) State.reset) =
    [[0x00, 0xe6, 0x08, 0x00, 0x00, 0x00, 0x00, 0x00, 0x00, 0x00, 0x00, 0x00, 0x00, 0x00, 0x00, 0x00,
    0x03]] := by decide +kernel

/-- T37. -/
theorem test_gfMul_ones : resp (exec (.gfMul 0xffffffffffffffffffffffffffffffff 0xffffffffffffffffffffffffffffffff) State.reset) =
    [[0x00, 0xf4, 0x02, 0xaa, 0xaa, 0xaa, 0xaa, 0xaa, 0xaa, 0xaa, 0xaa, 0xaa, 0xaa, 0xaa, 0xaa, 0xaa,
    0xaa]] := by decide +kernel

/-- T43: the empty c folds a zero block. -/
theorem test_ghash_empty_c : resp (exec (.ghash 0 0x66e94bd4ef8a2c3b884cfa59ca342b2e [0xfe, 0xed, 0xfa, 0xce, 0xde, 0xad, 0xbe, 0xef] []) State.reset) =
    [[0x00, 0x8a, 0xa8, 0x76, 0x86, 0x89, 0xce, 0x5d, 0xe3, 0x22, 0x39, 0xf5, 0x8d, 0x75, 0xb6, 0x8c,
    0xeb]] := by decide +kernel

/-- T47. -/
theorem test_ghash_seventeen_bytes : resp (exec (.ghash 0 0x66e94bd4ef8a2c3b884cfa59ca342b2e (zeros 17) []) State.reset) =
    [[0x00, 0x9f, 0xb2, 0x16, 0x90, 0xd4, 0x29, 0xe6, 0xf1, 0x47, 0xdf, 0x69, 0xa1, 0x72, 0x8e, 0xf8,
    0x30]] := by decide +kernel

/-- T51: a shorter string is unequal. -/
theorem test_tsEqual_length : resp (exec (.tsEqual [0xab, 0x6e, 0x47, 0xd4] [0xab, 0x6e, 0x47]) State.reset) =
    [[0x00, 0x00]] := by decide +kernel

/-- T52. -/
theorem test_tsEqual_top_bit : resp (exec (.tsEqual [0x00] [0x80]) State.reset) =
    [[0x00, 0x00]] := by decide +kernel

/-- T84: with both wrong the tag size is reported, and the slot is EMPTY. -/
theorem test_sessionNew_order : resp (exec (.sessionNew (zeros 15) (zeros 12) 11) spent) = [[0x02]] ∧
    slotAfter (exec (.sessionNew (zeros 15) (zeros 12) 11) spent) = Slot.empty := by decide +kernel

/-- T89: HSUB of a 24-byte key and J0 of a one-byte nonce. -/
theorem test_sessionNew_short_nonce :
    let t := exec (.sessionNew (zeros 24) [0x01] 16) { State.reset with
      draws := [.answered], points := [{ key := zeros 24, block := zeros 16, out := 0xaae06992acbf52a3e8f4a96ec9300bd7 }] }
    (slotAfter t).hsub = 0xaae06992acbf52a3e8f4a96ec9300bd7 ∧ (slotAfter t).j0 = 0xcadf5c3e906bff9b0821e90a5b230469 ∧
      (slotAfter t).keylen = 24 := by decide +kernel

/-- The cipher of T75: AES-128 at the six blocks its requests carry. -/
def t75 : State :=
  { slot := { valid := true, used := false, keylen := 16, key := 0xfeffe9928665731c6d6a8f946730830800000000000000000000000000000000, tagsize := 16,
              hsub := 0xb83b533708bf535d0aa6e52980d53b78, j0 := 0xc43a83c4c4badec4354ca984db252f7d, ctr := 0xc43a83c4c4badec4354ca984db252f7d }
    phase := .idle, inputs := [], draws := List.replicate 6 .answered, requests := [], responses := []
    points := [
    { key := be16 0xfeffe9928665731c6d6a8f9467308308, block := be16 0x00000000000000000000000000000000,
      out := 0xb83b533708bf535d0aa6e52980d53b78 },
    { key := be16 0xfeffe9928665731c6d6a8f9467308308, block := be16 0xc43a83c4c4badec4354ca984db252f7d,
      out := 0xe94ab9535c72bea9e089c93d48e62fb0 },
    { key := be16 0xfeffe9928665731c6d6a8f9467308308, block := be16 0xc43a83c4c4badec4354ca984db252f7e,
      out := 0xb8040969d08295afd226fcda0ddf61cf },
    { key := be16 0xfeffe9928665731c6d6a8f9467308308, block := be16 0xc43a83c4c4badec4354ca984db252f7f,
      out := 0xef3c83225af93122192ad5c4f15dfe51 },
    { key := be16 0xfeffe9928665731c6d6a8f9467308308, block := be16 0xc43a83c4c4badec4354ca984db252f80,
      out := 0x6fbc659571f72de104c67b609d2fde67 },
    { key := be16 0xfeffe9928665731c6d6a8f9467308308, block := be16 0xc43a83c4c4badec4354ca984db252f81,
      out := 0xf8e3581441a1e950785c3ea1430c6fa6 }] }

/-- T75: an 8-byte nonce, 20 bytes of associated data, 60 bytes of text. -/
theorem test_encrypt_t75 : resp (exec (.encrypt
    [0xfe, 0xed, 0xfa, 0xce, 0xde, 0xad, 0xbe, 0xef, 0xfe, 0xed, 0xfa, 0xce, 0xde, 0xad, 0xbe, 0xef,
    0xab, 0xad, 0xda, 0xd2]
    [0xd9, 0x31, 0x32, 0x25, 0xf8, 0x84, 0x06, 0xe5, 0xa5, 0x59, 0x09, 0xc5, 0xaf, 0xf5, 0x26, 0x9a,
    0x86, 0xa7, 0xa9, 0x53, 0x15, 0x34, 0xf7, 0xda, 0x2e, 0x4c, 0x30, 0x3d, 0x8a, 0x31, 0x8a, 0x72,
    0x1c, 0x3c, 0x0c, 0x95, 0x95, 0x68, 0x09, 0x53, 0x2f, 0xcf, 0x0e, 0x24, 0x49, 0xa6, 0xb5, 0x25,
    0xb1, 0x6a, 0xed, 0xf5, 0xaa, 0x0d, 0xe6, 0x57, 0xba, 0x63, 0x7b, 0x39]) t75) =
    [0x00 :: 0 :: 0 :: 0 :: 0 :: 0 :: 0 :: 0 :: 76 ::
    [0x61, 0x35, 0x3b, 0x4c, 0x28, 0x06, 0x93, 0x4a, 0x77, 0x7f, 0xf5, 0x1f, 0xa2, 0x2a, 0x47, 0x55,
    0x69, 0x9b, 0x2a, 0x71, 0x4f, 0xcd, 0xc6, 0xf8, 0x37, 0x66, 0xe5, 0xf9, 0x7b, 0x6c, 0x74, 0x23,
    0x73, 0x80, 0x69, 0x00, 0xe4, 0x9f, 0x24, 0xb2, 0x2b, 0x09, 0x75, 0x44, 0xd4, 0x89, 0x6b, 0x42,
    0x49, 0x89, 0xb5, 0xe1, 0xeb, 0xac, 0x0f, 0x07, 0xc2, 0x3f, 0x45, 0x98, 0x36, 0x12, 0xd2, 0xe7,
    0x9e, 0x3b, 0x07, 0x85, 0x56, 0x1b, 0xe1, 0x4a, 0xac, 0xa2, 0xfc, 0xcb]] := by decide +kernel

/-- T98: a failing keystream request: its code, CTR at the block started, USED set. -/
theorem test_encrypt_backend_error :
    let t := exec (.encrypt [] (zeros 32)) (ready 16 [.answered, .answered, .answered, .failed 0xdeadbeef])
    resp t = [[0x05, 0xde, 0xad, 0xbe, 0xef]] ∧ (slotAfter t).ctr = 3 ∧ (slotAfter t).used = true ∧
      (reqs t).length = 4 := by decide +kernel

/-- T101: tag size 12: the last four bytes of the trailer are not checked. -/
theorem test_decrypt_short_tag : resp (exec (.decrypt []
    [0x03, 0x88, 0xda, 0xce, 0x60, 0xb6, 0xa3, 0x92, 0xf3, 0x28, 0xc2, 0xb9, 0x71, 0xb2, 0xfe, 0x78,
    0xab, 0x6e, 0x47, 0xd4, 0x2c, 0xec, 0x13, 0xbd, 0xf5, 0x3a, 0x67, 0xb2, 0x00, 0x00, 0x00, 0x00])
    (ready 12 (List.replicate 3 .answered))) = [0x00 :: 0 :: 0 :: 0 :: 0 :: 0 :: 0 :: 0 :: 16 :: zeros 16] := by
  decide +kernel

/-- T94: a tag bit flipped: AuthenticationFailure after two requests, CTR at J0. -/
theorem test_decrypt_tampered :
    let t := exec (.decrypt []
      [0x03, 0x88, 0xda, 0xce, 0x60, 0xb6, 0xa3, 0x92, 0xf3, 0x28, 0xc2, 0xb9, 0x71, 0xb2, 0xfe, 0x78,
    0xab, 0x6e, 0x47, 0xd4, 0x2c, 0xec, 0x13, 0xbd, 0xf5, 0x3a, 0x67, 0xb2, 0x12, 0x57, 0xbd, 0x5f])
      (ready 16 (List.replicate 3 .answered))
    resp t = [[0x06]] ∧ (reqs t).length = 2 ∧ (slotAfter t).ctr = 1 := by decide +kernel

/-- T102. -/
theorem test_sessionClear : slotAfter (exec .sessionClear spent) = Slot.empty ∧
    resp (exec .sessionClear spent) = [[0x00]] := by decide +kernel

/-! ### A state and operands that meet the hypotheses of each obligation that has some -/

/-- An opcode byte alone is no encoding where the format has a field. -/
theorem opcode_alone (op : Byte) (h : op ≠ 0x43) : ∀ i : Instr, i.WellFormed → encode i ≠ [op] := by
  intro i _ he
  cases i <;> simp [encode, opcodeOf, operandsOf, operandBytes, Operand.bytes, be16, beBytes] at he
  exact h he.symm

theorem witness_WorkedFramesDecodeAndAnswer : (fresh [.answered]).drawAt 0 = .answered := rfl

theorem witness_DecodeOfEncodeIsTheCommand : (Instr.sessionNew (zeros 32) longest 0xff).WellFormed :=
  ⟨fits_of_le (by decide), longest_fits⟩

theorem witness_OnlyEncodingsDecode : decode [0x43] = .command .sessionClear := by decide

theorem witness_FramesAreExact : (Instr.wiInc 0).WellFormed ∧ (1 ≤ 1 ∧ 1 < (encode (.wiInc 0)).length) ∧
    (1 ≤ 16 ∧ 16 < (encode (.wiInc 0)).length) ∧ ([0x00] : ByteString) ≠ [] := by
  refine ⟨trivial, ?_, ?_, ?_⟩ <;> decide

theorem witness_OpcodeIsCheckedFirst : decode [0x0F] = .illegalCommand ∧ decode [0x18] = .illegalCommand ∧
    decode [0x1F] = .illegalCommand ∧ decode [0x31] = .illegalCommand ∧ decode [0x3F] = .illegalCommand ∧
    decode [0x10] = .malformedCommand ∧ decode [0x17] = .malformedCommand ∧ decode [0x21] = .malformedCommand ∧
    decode [0x30] = .malformedCommand ∧ decode [0x40] = .malformedCommand := by decide

theorem witness_OverlongStringsAreMalformed : Config.maxLen < Config.maxLen + 1 ∧ Config.maxLen + 1 < 2 ^ 64 ∧
    Config.maxLen < 2 ^ 64 - 1 ∧ StrFits [] ∧ StrFits longest := by
  have := maxLen_bounds.2
  exact ⟨by omega, by omega, by omega, fits_of_le (by decide), longest_fits⟩

theorem witness_DecodeErrorsChangeNothing :
    (outside .idle [.frame [0xff]]).phase = .idle ∧ (outside .idle [.frame [0xff]]).inputs = .frame [0xff] :: [] ∧
    decode [0xff] = .illegalCommand ∧ (outside .idle [.frame []]).inputs = .frame [] :: [] ∧
    decode [] = .malformedCommand := by decide

theorem witness_StepRunsTheDecodedCommand :
    (outside .idle [.frame [0x43], .reset]).phase = .idle ∧
    (outside .idle [.frame [0x43], .reset]).inputs = .frame [0x43] :: [.reset] ∧
    decode [0x43] = .command .sessionClear := by decide

theorem witness_FrameIsRefusedUnlessIdle :
    (outside (.waiting hRequest) [.frame []]).inputs = .frame [] :: [] ∧
    (outside (.waiting hRequest) [.frame []]).phase = .waiting hRequest ∧
    (outside .resetting [.frame [0x43]]).inputs = .frame [0x43] :: [] ∧
    (outside .resetting [.frame [0x43]]).phase = .resetting := by decide

theorem witness_ResetFollowsItsRule :
    (outside .idle [.reset]).inputs = .reset :: [] ∧
    (outside (.waiting hRequest) [.lateAnswer (.ok 0)]).inputs = .lateAnswer (.ok 0) :: [] ∧
    (outside (.waiting hRequest) [.resetDone]).phase = .waiting hRequest ∧
    step (outside (.waiting hRequest) [.resetDone]) = .next (outside (.waiting hRequest) []) ∧
    (outside (.waiting hRequest) [.resetDone]).inputs.head? ≠ some .reset ∧
    step (outside (.waiting hRequest) []) = .next (outside (.waiting hRequest) []) := by
  refine ⟨rfl, rfl, rfl, rfl, by decide, rfl⟩

theorem witness_FirstFrameAfterReset :
    (outside (.waiting hRequest) [.reset, .resetDone, .frame [0x43]]).inputs =
      .reset :: .resetDone :: .frame [0x43] :: [] ∧ decode [0x43] = .command .sessionClear := by decide

theorem witness_UnansweredRequestWaitsForever :
    (outside (.waiting hRequest) []).phase = .waiting hRequest ∧ (outside (.waiting hRequest) []).inputs = [] := by decide

theorem witness_FromBytesIsTheBigEndianSum : 16 ≤ (zeros 16).length ∧ 16 ≤ (zeros 17).length ∧ (zeros 16).length = 16 ∧
    (zeros 15).length < 16 ∧ ([] : ByteString).length < 16 := by decide

theorem witness_ToBytesAndFromBytesAreInverse : (0 < 16 ∧ 15 < 16) ∧ (zeros 16).length = 16 := by decide

theorem witness_ShiftRightOneIsTheWideShift : 0 < 127 ∧ 126 < 127 := by decide

theorem witness_IncrementIsModTwoToThe128 :
    (0xffffffff : Wide).toNat % 2 ^ 32 = 2 ^ 32 - 1 ∧ (BitVec.allOnes 128).toNat % 2 ^ 32 = 2 ^ 32 - 1 := by decide

theorem witness_FromBytesAndFromHalvesCommands : (zeros 15).length < 16 ∧ 16 ≤ (zeros 16).length ∧
    ∀ i : Instr, i.WellFormed → encode i ≠ [0x10] := ⟨by decide, by decide, opcode_alone 0x10 (by decide)⟩

theorem witness_ToBytesAndEqualCommands : (0 : Wide) = 0 ∧ (0 : Wide) ≠ 1 ∧ 0 < 128 ∧ 127 < 128 := by decide

theorem witness_DatapathCommandsArePure : (Instr.wiInc 0).Datapath = true ∧ (Instr.ghash 0 0 [] []).Datapath = true ∧
    (Instr.tsEqual [] []).Datapath = true := by decide

theorem witness_PaddingFillsWholeBlocks : zeros 1 ≠ [] ∧ zeros 17 ≠ [] ∧
    (zeros 16 ≠ [] ∧ (zeros 16).length % 16 = 0) := by decide

theorem witness_LengthBlockHoldsBothBitLengths : StrFits [] ∧ StrFits longest := ⟨fits_of_le (by decide), longest_fits⟩

theorem witness_GhashCommand : (∀ i : Instr, i.WellFormed → encode i ≠ [0x21]) ∧
    0 < 1 ∧ (zeros 16).length = 16 * 1 := ⟨opcode_alone 0x21 (by decide), by decide, by decide⟩

theorem witness_TimingSafeEqualIsEquality : (zeros 1).length ≠ ([] : ByteString).length := by decide

theorem witness_TsEqualCommand : ([] : ByteString) = [] ∧ zeros 1 ≠ [] ∧
    ∀ i : Instr, i.WellFormed → encode i ≠ [0x30] := ⟨rfl, by decide, opcode_alone 0x30 (by decide)⟩

theorem witness_DeriveJ0FollowsItsRule : (zeros 12).length = 12 ∧ (zeros 11).length ≠ 12 ∧ (zeros 13).length ≠ 12 ∧
    ([] : ByteString).length ≠ 12 := by decide

theorem answered (s : State) (n : Nat) (h : s.draws = List.replicate n .answered) : s.AllAnswered n := by
  intro i hi
  simp [State.drawAt, h, hi]

theorem witness_KeystreamFollowsItsRule : (zeros 32).length ∈ keyLengths ∧
    (fresh (List.replicate 1 .answered)).AllAnswered (blockCount []) ∧
    (fresh (List.replicate 2 .answered)).AllAnswered (blockCount (zeros 17)) :=
  ⟨by decide, answered _ _ rfl, answered _ _ rfl⟩

theorem witness_SessionNewFollowsItsRule : (∀ i : Instr, i.WellFormed → encode i ≠ [0x40]) ∧
    (16 : Byte).toNat ∈ tagSizes ∧ (zeros 16).length ∈ keyLengths ∧ (zeros 32).length ∈ keyLengths ∧
    (fresh [.answered]).drawAt 0 = .answered ∧ (11 : Byte).toNat ∉ tagSizes ∧ (zeros 15).length ∉ keyLengths ∧
    (zeros 33).length ∉ keyLengths ∧ (fresh [.failed 0x2a]).drawAt 0 = .failed 0x2a ∧
    (fresh [.answered]).cipher (zeros 16) (zeros 16) = 0x66e94bd4ef8a2c3b884cfa59ca342b2e := by
  refine ⟨opcode_alone 0x40 (by decide), ?_, ?_, ?_, ?_, ?_, ?_, ?_, ?_, ?_⟩ <;> decide

/-- A READY session meets what ENCRYPT and DECRYPT ask of it. -/
theorem ready_ready (tagsize : BitVec 5) (draws : List Draw) : (ready tagsize draws).Ready :=
  ⟨rfl, rfl, show (16 : BitVec 6).toNat ∈ keyLengths by decide, rfl⟩

theorem witness_EncryptFollowsItsRule : (∀ i : Instr, i.WellFormed → encode i ≠ [0x41]) ∧
    State.reset.slot.valid = false ∧ (spent.slot.valid = true ∧ spent.slot.used = true) ∧
    ((ready 16 (List.replicate 3 .answered)).Ready ∧
      (ready 16 (List.replicate 3 .answered)).AllAnswered (2 + blockCount []) ∧
      (ready 16 (List.replicate 3 .answered)).slot.tagsize.toNat ∈ tagSizes) ∧
    (0 < 2 + blockCount [] ∧ (ready 4 [.failed 1]).AllAnswered 0 ∧ (ready 4 [.failed 1]).drawAt 0 = .failed 1) ∧
    (2 < 2 + blockCount [] ∧ (ready 4 [.answered, .answered, .failed 1]).AllAnswered 2 ∧
      (ready 4 [.answered, .answered, .failed 1]).drawAt 2 = .failed 1) := by
  refine ⟨opcode_alone 0x41 (by decide), rfl, ⟨rfl, rfl⟩, ⟨ready_ready _ _, answered _ _ rfl, by decide⟩,
    ⟨by decide, ?_, rfl⟩, ⟨by decide, ?_, rfl⟩⟩ <;> unfold State.AllAnswered <;> decide

theorem witness_EncryptExample : (ready 16 (List.replicate 3 .answered)).Ready ∧
    (ready 16 (List.replicate 3 .answered)).AllAnswered 3 ∧ (ready 16 []).slot.tagsize = 16 ∧
    (ready 16 []).slot.sessionKey = zeros 16 ∧ (ready 16 []).slot.j0 = 1 ∧
    (ready 16 []).cipher (zeros 16) (zeros 16) = 0x66e94bd4ef8a2c3b884cfa59ca342b2e ∧
    (ready 16 []).cipher (zeros 16) (be16 1) = 0x58e2fccefa7e3061367f1d57a4e7455a ∧
    (ready 16 []).cipher (zeros 16) (be16 2) = 0x0388dace60b6a392f328c2b971b2fe78 := by
  refine ⟨ready_ready _ _, answered _ _ rfl, ?_, ?_, ?_, ?_, ?_, ?_⟩ <;> decide +kernel

theorem witness_DecryptFollowsItsRule : (∀ i : Instr, i.WellFormed → encode i ≠ [0x42]) ∧
    State.reset.slot.valid = false ∧ (spent.slot.valid = true ∧ spent.slot.used = true) ∧
    ((ready 16 []).slot.valid = true ∧ (ready 16 []).slot.used = false ∧ (zeros 15).length < 16) ∧
    ((ready 16 (List.replicate 3 .answered)).Ready ∧ 16 ≤ sealedZeros.length ∧
      (ready 16 (List.replicate 3 .answered)).TagMatches [] sealedZeros ∧
      (ready 16 (List.replicate 3 .answered)).AllAnswered (2 + blockCount (textPart sealedZeros))) ∧
    (16 ≤ (zeros 16).length ∧ ¬ (ready 16 (List.replicate 2 .answered)).TagMatches [] (zeros 16) ∧
      (ready 16 (List.replicate 2 .answered)).AllAnswered 2) := by
  refine ⟨opcode_alone 0x42 (by decide), rfl, ⟨rfl, rfl⟩, ⟨rfl, rfl, by decide⟩,
    ⟨ready_ready _ _, by decide, by decide +kernel, answered _ _ rfl⟩, ⟨by decide, by decide +kernel, answered _ _ rfl⟩⟩

theorem witness_DecryptBackendError :
    ((1 < 2 ∧ (ready 16 [.answered, .failed 1]).AllAnswered 1 ∧ (ready 16 [.answered, .failed 1]).drawAt 1 = .failed 1) ∧
      ¬ (ready 16 [.answered, .failed 1]).TagMatches [] (zeros 16)) ∧
    (2 < 2 + blockCount (textPart sealedZeros) ∧
      (ready 16 [.answered, .answered, .failed 1]).TagMatches [] sealedZeros ∧
      (ready 16 [.answered, .answered, .failed 1]).AllAnswered 2 ∧
      (ready 16 [.answered, .answered, .failed 1]).drawAt 2 = .failed 1) := by
  refine ⟨⟨⟨by decide, ?_, rfl⟩, by decide +kernel⟩, ⟨by decide, by decide +kernel, ?_, rfl⟩⟩ <;>
    unfold State.AllAnswered <;> decide

theorem witness_SessionClearFollowsItsRule : zeros 1 ≠ [] ∧ exec .sessionClear spent = .next (spent.scrub.respond [0x00]) ∧
    ∃ u, exec .sessionClear (spent.scrub.respond [0x00]) = .next u := ⟨by decide, rfl, _, rfl⟩

theorem witness_SilentAgentLeavesTheCoreWaiting :
    ((16 : Byte).toNat ∈ tagSizes ∧ (zeros 16).length ∈ keyLengths ∧ (fresh [.silent]).drawAt 0 = .silent) ∧
    (0 < 2 + blockCount [] ∧ (ready 16 [.silent]).AllAnswered 0 ∧ (ready 16 [.silent]).drawAt 0 = .silent) ∧
    (16 ≤ sealedZeros.length ∧ 2 < 2 + blockCount (textPart sealedZeros) ∧
      (ready 16 [.answered, .answered, .silent]).TagMatches [] sealedZeros ∧
      (ready 16 [.answered, .answered, .silent]).AllAnswered 2 ∧
      (ready 16 [.answered, .answered, .silent]).drawAt 2 = .silent) := by
  refine ⟨⟨by decide, by decide, rfl⟩, ⟨by decide, ?_, rfl⟩, ⟨by decide, by decide, by decide +kernel, ?_, rfl⟩⟩ <;>
    unfold State.AllAnswered <;> decide

/-- The READY session of the tests is one SESSION_NEW opens. -/
theorem ready_inv (draws : List Draw) : (ready 16 draws).SessionInv where
  keylen _ := by show (16 : BitVec 6).toNat ∈ keyLengths; decide
  tagsize _ := by show (16 : BitVec 5).toNat ∈ tagSizes; decide
  keyTail _ := by
    show (beBytes 32 (0 : BitVec 256).toNat).drop (16 : BitVec 6).toNat = zeros (32 - (16 : BitVec 6).toNat); decide
  hsub _ := by
    have h : (ready 16 draws).hashKey (ready 16 draws).slot.sessionKey = (ready 16 []).hashKey (ready 16 []).slot.sessionKey :=
      cipher_congr (s := ready 16 draws) (t := ready 16 []) rfl _ _
    rw [h]
    show (ready 16 []).slot.hsub = _
    decide +kernel
  j0 _ := ⟨zeros 12, fits_of_le (by decide), by
    show (1 : Wide) = deriveJ0 0x66e94bd4ef8a2c3b884cfa59ca342b2e (zeros 12); decide⟩
  ctr _ _ := rfl
  empty h := by cases h

theorem witness_RequestsFollowTheTable : (ready 16 [.answered, .answered, .failed 7]).SessionInv ∧
    (∃ t, exec (.encrypt [] []) (ready 16 [.answered, .answered, .failed 7]) = .next t ∧
      t.responses = (ready 16 [.answered, .answered, .failed 7]).responses ++
        [0x05 :: beBytes 4 (7 : BitVec 32).toNat]) ∧
    (∃ t, exec (.encrypt [] []) (ready 16 (List.replicate 3 .answered)) = .next t ∧
      t.responses.map List.head? = [some 0x00] ∧ 1 < t.requests.length - 1) ∧
    (∃ t, exec (.decrypt [] (zeros 16)) (ready 16 (List.replicate 2 .answered)) = .next t ∧
      t.responses = (ready 16 (List.replicate 2 .answered)).responses ++ [[0x06]]) := by
  refine ⟨ready_inv _, ⟨_, next_of_isNext ?_, ?_⟩, ⟨_, next_of_isNext ?_, ?_⟩, ⟨_, next_of_isNext ?_, ?_⟩⟩
  all_goals decide +kernel

theorem witness_OneResponseForEachCommand : ∃ t, exec (.wiInc 0) State.reset = .next t := ⟨_, rfl⟩

theorem witness_StepKeepsSessionInvariants : (ready 16 []).SessionInv ∧
    ∃ t, step { ready 16 [] with inputs := [.reset] } = .next t := ⟨ready_inv _, _, rfl⟩

theorem witness_StepKeepsRequestsLegal : State.RequestsInv { outside (.waiting hRequest) [.reset] with requests := [hRequest] } ∧
    ∃ t, step { outside (.waiting hRequest) [.reset] with requests := [hRequest] } = .next t := by
  refine ⟨⟨?_, ?_⟩, _, rfl⟩
  · intro r hr
    cases List.mem_singleton.1 hr
    exact ⟨by decide, by decide⟩
  · intro r hr
    cases hr
    rfl

theorem witness_StepKeepsResponsesLegal : (∀ r ∈ ([[0x00], [0x07]] : List ByteString), LegalResponse r) ∧
    ∃ t, step { outside .idle [.frame []] with responses := [[0x00], [0x07]] } = .next t := by
  refine ⟨?_, _, rfl⟩
  intro r hr
  rcases List.mem_pair.1 hr with rfl | rfl
  · exact .inl rfl
  · exact .inr (.inl (by decide))

theorem witness_StepStopsOnlyOnAHostDuty : State.reset.SessionInv ∧ (ready 16 []).SessionInv := by
  refine ⟨?_, ready_inv _⟩
  constructor <;> intro h <;> first | rfl | cases h

theorem witness_SessionStatesMoveAsTabled : (ready 16 [.answered]).SessionInv ∧
    (∃ t, exec (.sessionNew (zeros 16) (zeros 12) 16) (ready 16 [.answered]) = .next t) ∧
    ((ready 16 [.silent]).slot.sessionState = .ready ∧ ∃ t, exec (.encrypt [] []) (ready 16 [.silent]) = .next t) ∧
    (spent.slot.sessionState = .spent ∧ ∃ t, exec (.encrypt [] []) spent = .next t) ∧
    (State.reset.slot.sessionState = .empty ∧ ∃ t, exec (.decrypt [] []) State.reset = .next t) ∧
    (∃ t, exec .sessionClear spent = .next t) ∧
    ((Instr.wiShr1 1).Datapath = true ∧ ∃ t, exec (.wiShr1 1) spent = .next t) :=
  ⟨ready_inv _, ⟨_, rfl⟩, ⟨rfl, _, rfl⟩, ⟨rfl, _, rfl⟩, ⟨rfl, _, rfl⟩, ⟨_, rfl⟩, rfl, _, rfl⟩

/-- A run over a decode error, T_RESET's end and a late answer. -/
theorem witness_SpentSessionStaysSpent : spent.slot.sessionState = .spent ∧
    (∀ a ∈ ([.frame [0x42], .resetDone, .lateAnswer (.err 1)] : List Input), a.KeepsSession) ∧
    ∃ t, core.run 4 { spent with inputs := [.frame [0x42], .resetDone, .lateAnswer (.err 1)] } = .next t := by
  refine ⟨rfl, ?_, _, rfl⟩
  intro a ha
  have hd : decode [0x42] = .malformedCommand := by decide
  rcases List.mem_cons.1 ha with rfl | ha
  · intro i hi
    rw [hd] at hi
    cases hi
  · rcases List.mem_pair.1 ha with rfl | rfl <;> trivial

theorem witness_CounterBlocksNeverRepeat : StrFits (zeros 32) ∧ (ready 16 [.silent]).Ready ∧
    ∃ t, exec (.encrypt [] (zeros 32)) (ready 16 [.silent]) = .next t :=
  ⟨fits_of_le (by decide), ready_ready _ _, _, rfl⟩

theorem witness_DecryptUndoesEncrypt : (zeros 24).length ∈ keyLengths ∧ StrFits [] ∧
    (fresh (List.replicate 4 .answered)).AllAnswered (3 + blockCount []) :=
  ⟨by decide, fits_of_le (by decide), answered _ _ rfl⟩

theorem witness_DecryptOpensOnlyAMatchingTag :
    (∃ t, exec (.decrypt [] sealedZeros) (ready 16 (List.replicate 3 .answered)) = .next t ∧
      t.responses = (ready 16 (List.replicate 3 .answered)).responses ++
        [0x00 :: 0 :: 0 :: 0 :: 0 :: 0 :: 0 :: 0 :: 16 :: zeros 16]) ∧
    (∃ t, exec (.decrypt [] []) State.reset = .next t ∧ t.responses = State.reset.responses ++ [[0x07]]) := by
  refine ⟨⟨_, next_of_isNext ?_, ?_⟩, _, rfl, rfl⟩
  all_goals decide +kernel

theorem witness_DecryptIgnoresTheEndOfTheTrailer :
    ((zeros 12).length = (ready 12 []).slot.tagsize.toNat ∧ (zeros 12).length + (zeros 4).length = 16 ∧
      [0x01, 0x02, 0x03, 0x04].length = (zeros 4).length) ∧
    ((zeros 16).length = (ready 16 []).slot.tagsize.toNat ∧ (zeros 16).length + ([] : ByteString).length = 16) := by decide

theorem witness_CounterAgreesWithTheThirtyTwoBitIncrement : (1 : Wide).toNat % 2 ^ 32 + (2 ^ 32 - 2) < 2 ^ 32 ∧
    (0xffffffff : Wide).toNat % 2 ^ 32 = 2 ^ 32 - 1 := by decide

theorem witness_SecretsReachNoOtherResponse :
    spent = { (ready 16 []) with slot := { spent.slot with valid := true, used := true, tagsize := 16 } } ∧
    spent.slot.sessionState ≠ .ready ∧ (∃ t, exec (.encrypt [] []) spent = .next t) ∧
    ∃ t, exec (.wiInc 0) (ready 16 []) = .next t := ⟨by decide, by decide, ⟨_, rfl⟩, _, rfl⟩

end

end Sys2Proof.Tests
end

section
/-! PROOFS. What Decode answers is well formed (spec/30_encoding.md R74, spec/20_memory.md R55). -/

namespace Sys2Proof

/-- A field that was read is one a field can carry (R55). -/
theorem readField_fits {t : FieldType} {f rest : ByteString} {v : Operand} (h : readField t f = some (v, rest)) :
    v.Fits := by
  cases v with
  | blk v => trivial
  | u64 v => trivial
  | u8 v => trivial
  | str s =>
    cases t with
    | str =>
      simp only [readField, Option.ite_none_left_eq_some, Option.ite_none_right_eq_some, Option.some.injEq,
        Prod.mk.injEq, Operand.str.injEq] at h
      obtain ⟨-, hmax, -, rfl, -⟩ := h
      exact (List.length_take_le _ _).trans hmax
    | blk => simp [readField] at h
    | u64 => simp [readField] at h
    | u8 => cases f <;> simp [readField] at h

/-- Every field of a format that was read is one a field can carry. -/
theorem readFields_fits {ts : List FieldType} {f rest : ByteString} {vs : List Operand}
    (h : readFields ts f = some (vs, rest)) : ∀ v ∈ vs, v.Fits := by
  induction ts generalizing f vs with
  | nil => cases h; simp
  | cons t ts ih =>
    simp only [readFields] at h
    split at h
    · cases h
    next v f' hv =>
      split at h
      · cases h
      next vs' tail hvs =>
        cases h
        exact List.forall_mem_cons.2 ⟨readField_fits hv, ih hvs⟩

/-- The operands a command was assembled from are its operand fields (R72, R73). -/
theorem operandsOf_assemble {op : Byte} {vs : List Operand} {i : Instr} (h : assemble op vs = some i) :
    operandsOf i = vs := by
  unfold assemble at h
  split at h <;> repeat' split at h
  all_goals cases h <;> rfl

/-- A command is well formed when a frame can carry each of its operand fields (R55). -/
theorem wellFormed_iff_operandsOf_fit (i : Instr) : i.WellFormed ↔ ∀ v ∈ operandsOf i, v.Fits := by
  cases i <;> simp [Instr.WellFormed, operandsOf, Operand.Fits]

/-- Every frame that decodes carries a well-formed command (R74). -/
theorem decode_wellFormed {f : ByteString} {i : Instr} (h : decode f = .command i) : i.WellFormed := by
  unfold decode at h
  split at h
  · cases h
  · split at h
    · cases h
    · split at h
      next vs hread =>
        split at h
        next hasm =>
          cases h
          rw [wellFormed_iff_operandsOf_fit, operandsOf_assemble hasm]
          exact readFields_fits hread
        · cases h
      · cases h

end Sys2Proof
end

section
/-! PROOFS. What a command and a step can do to the session slot, said once (spec/10_state.md R34, spec/42_gcm_engine.md R165 to R168,
spec/70_reset_and_hazards.md R240 to R243). -/

namespace Sys2Proof.Machine

/-- A datapath command answers OK with one payload, whatever the state, and does nothing else (R109). -/
theorem exec_of_datapath {i : Instr} (h : i.Datapath = true) :
    ∃ p, ∀ s, exec i s = .next (s.respond (okResponse p)) := by
  cases i with
  | sessionNew | encrypt | decrypt | sessionClear => cases h
  | _ => exact ⟨_, fun _ => rfl⟩

/-- The end of a part of a session command: at most a response is added to the state the part left. -/
theorem Call.From.finish_next {s t : State} {c : Call Payload} (hc : c.From s) (h : c.finish = .next t) :
    ∃ u, s.Extends u ∧ (t = u ∨ ∃ r, t = u.respond r) := by
  cases c with
  | done p u => cases h; exact ⟨_, hc.1, .inr ⟨_, rfl⟩⟩
  | raised e u => cases h; exact ⟨_, hc.1, .inr ⟨_, rfl⟩⟩
  | waits u => cases h; exact ⟨_, hc.1, .inl rfl⟩
  | broken r => cases h

/-- ENCRYPT and DECRYPT on a slot they accept: the slot is spent, and beside USED only CTR may change (R166, R167). -/
theorem finish_spend {s t : State} {c : Call Payload} (hc : c.From s.spend) (h : c.finish = .next t) :
    t.slot = { s.slot with used := true, ctr := t.slot.ctr } ∧ t.points = s.points := by
  obtain ⟨u, hu, rfl | ⟨r, rfl⟩⟩ := hc.finish_next h <;> exact ⟨hu.slot, hu.points⟩

/-- What ENCRYPT and DECRYPT can do to the session: refuse it with an error and nothing else, or spend it. -/
theorem exec_use_cases {i : Instr} {a b : ByteString} {s t : State} (hi : i = .encrypt a b ∨ i = .decrypt a b)
    (h : exec i s = .next t) :
    (∃ e, s.slot.refusesUse = some e ∧ t = s.respond (errorResponse e)) ∨
    (s.slot.refusesUse = none ∧ t.slot = { s.slot with used := true, ctr := t.slot.ctr } ∧ t.points = s.points) := by
  cases hr : s.slot.refusesUse with
  | some e =>
    refine .inl ⟨e, rfl, ?_⟩
    rcases hi with rfl | rfl <;> simp only [exec, execEncrypt, execDecrypt, hr] at h <;> cases h <;> rfl
  | none =>
    refine .inr ⟨rfl, ?_⟩
    rcases hi with rfl | rfl <;> simp only [exec, execEncrypt, execDecrypt, hr] at h
    · exact finish_spend (encryptBody_from a b s.spend) h
    · exact finish_spend (decryptBody_from a b s.spend) h

/-- An error response is not the OK response without a payload (R78, R80). -/
theorem append_errorResponse_ne_ok (rs : List ByteString) (e : CommandError) :
    rs ++ [errorResponse e] ≠ rs ++ [[0x00]] := by
  intro h
  have he : errorResponse e = [0x00] := by simpa using h
  exact errorResponse_ne_ok e (by rw [he]; rfl)

/-- What SESSION_NEW can do (R165): leave the slot EMPTY with no OK response, or, with legal operands and the one request
answered, load the key, open the session and answer OK. -/
theorem exec_sessionNew_cases {key nonce : ByteString} {tagSize : Byte} {s t : State}
    (h : exec (.sessionNew key nonce tagSize) s = .next t) :
    (t.slot = Slot.empty ∧ t.responses ≠ s.responses ++ [[0x00]]) ∨
    (tagSize.toNat ∈ tagSizes ∧ key.length ∈ keyLengths ∧ s.drawAt 0 = .answered ∧
      t = (((s.scrub.issue key (zeros 16)).loadKey key tagSize (s.hashKey key)).openSession nonce).respond [0x00]) := by
  simp only [exec, execSessionNew, sessionNewBody] at h
  split at h
  · cases h; exact .inl ⟨rfl, append_errorResponse_ne_ok _ _⟩
  next htag =>
    split at h
    · cases h; exact .inl ⟨rfl, append_errorResponse_ne_ok _ _⟩
    next hkey =>
      rw [not_not] at htag hkey
      rcases callE_legal key (zeros 16) s.scrub (zeros_length 16) hkey with ⟨hd, hc⟩ | ⟨code, -, hc⟩ | ⟨-, hc⟩ <;>
        rw [hc] at h <;> cases h
      · exact .inr ⟨htag, hkey, hd, rfl⟩
      · exact .inl ⟨rfl, append_errorResponse_ne_ok _ _⟩
      · exact .inl ⟨rfl, by simp⟩

/-- What a step can do: wait, let T_RESET pass or ignore a late answer; reset; answer a frame that decodes to an error; run
the command of a frame. In each case the input at hand is consumed. -/
theorem step_cases {s t : State} (h : step s = .next t) :
    (∃ p, (p = s.phase ∨ s.phase = .resetting ∧ p = .idle) ∧ t = { s with phase := p, inputs := s.inputs.drop 1 }) ∨
    (s.inputs.head? = some .reset ∧ t = State.applyReset { s with inputs := s.inputs.drop 1 }) ∨
    (s.phase = .idle ∧ ∃ e, (e = .illegalCommand ∨ e = .malformedCommand) ∧
      t = State.respond { s with inputs := s.inputs.drop 1 } (errorResponse e)) ∨
    (s.phase = .idle ∧ ∃ f i, s.inputs.head? = some (.frame f) ∧ decode f = .command i ∧
      exec i { s with inputs := s.inputs.drop 1 } = .next t) := by
  unfold step at h
  split at h
  next hin => cases h; exact .inl ⟨s.phase, .inl rfl, by cases s; cases hin; rfl⟩
  next a rest hin =>
    simp only [hin, List.head?_cons, List.drop_one, List.tail_cons]
    cases a with
    | lateAnswer a => cases h; exact .inl ⟨s.phase, .inl rfl, rfl⟩
    | reset => cases h; exact .inr (.inl ⟨rfl, rfl⟩)
    | resetDone =>
      simp only [receive, resetDone] at h
      split at h <;> cases h
      next hp => exact .inl ⟨.idle, .inr ⟨hp, rfl⟩, rfl⟩
      all_goals exact .inl ⟨s.phase, .inl rfl, rfl⟩
    | frame f =>
      simp only [receive, receiveFrame] at h
      split at h
      next hp =>
        simp only [acceptFrame] at h
        split at h
        next i hi => exact .inr (.inr (.inr ⟨hp, f, i, rfl, hi, h⟩))
        · cases h; exact .inr (.inr (.inl ⟨hp, _, .inl rfl, rfl⟩))
        · cases h; exact .inr (.inr (.inl ⟨hp, _, .inr rfl, rfl⟩))
      · cases h
      · cases h

/-! The session states of R34 by the flags. -/

theorem sessionState_eq_empty_iff (c : Slot) : c.sessionState = .empty ↔ c.valid = false ∧ c.used = false := by
  unfold Slot.sessionState; split <;> simp [*]

theorem sessionState_eq_ready_iff (c : Slot) : c.sessionState = .ready ↔ c.valid = true ∧ c.used = false := by
  unfold Slot.sessionState; split <;> simp [*]

theorem sessionState_eq_spent_iff (c : Slot) : c.sessionState = .spent ↔ c.valid = true ∧ c.used = true := by
  unfold Slot.sessionState; split <;> simp [*]

theorem sessionState_eq_impossible_iff (c : Slot) : c.sessionState = .impossible ↔ c.valid = false ∧ c.used = true := by
  unfold Slot.sessionState; split <;> simp [*]

theorem refusesUse_of_empty {c : Slot} (h : c.sessionState = .empty) : c.refusesUse = some .noSession := by
  simp [Slot.refusesUse, (sessionState_eq_empty_iff c).1 h]

theorem refusesUse_of_spent {c : Slot} (h : c.sessionState = .spent) : c.refusesUse = some .sessionAlreadyUsed := by
  simp [Slot.refusesUse, (sessionState_eq_spent_iff c).1 h]

theorem refusesUse_eq_none_iff (c : Slot) : c.refusesUse = none ↔ c.sessionState = .ready := by
  rw [sessionState_eq_ready_iff, Slot.refusesUse]
  cases c.valid <;> cases c.used <;> decide

/-- ENCRYPT and DECRYPT on a session they refuse: the error's response and nothing else (R213). -/
theorem exec_use_refused {i : Instr} {a b : ByteString} {s t : State} {e : CommandError}
    (hi : i = .encrypt a b ∨ i = .decrypt a b) (hr : s.slot.refusesUse = some e) (h : exec i s = .next t) :
    t = s.respond (errorResponse e) := by
  rcases exec_use_cases hi h with ⟨e', he, rfl⟩ | ⟨hnone, -⟩
  · rw [hr] at he; cases he; rfl
  · rw [hr] at hnone; cases hnone

/-- ENCRYPT and DECRYPT take a READY session to SPENT, whatever the outcome (R34). -/
theorem exec_use_ready {i : Instr} {a b : ByteString} {s t : State} (hi : i = .encrypt a b ∨ i = .decrypt a b)
    (hs : s.slot.sessionState = .ready) (h : exec i s = .next t) : t.slot.sessionState = .spent := by
  have hr := (refusesUse_eq_none_iff s.slot).2 hs
  rcases exec_use_cases hi h with ⟨e, he, -⟩ | ⟨-, hslot, -⟩
  · rw [hr] at he; cases he
  · rw [sessionState_eq_spent_iff, hslot]
    exact ⟨((sessionState_eq_ready_iff s.slot).1 hs).1, rfl⟩

end Sys2Proof.Machine
end

section
/-! PROOFS. The session invariants of spec/10_state.md R35 and the operations that keep them. -/

namespace Sys2Proof.Machine

/-- The 32 bytes of the KEY register: the key, then zeros (R26). -/
theorem beBytes_keyRegister (k : ByteString) (h : k.length ≤ 32) :
    beBytes 32 (keyRegister k).toNat = k ++ zeros (32 - k.length) := by
  have hlen : (k ++ zeros (32 - k.length)).length = 32 := by simp; omega
  have hlt := beVal_lt (k ++ zeros (32 - k.length))
  have hbytes := beBytes_beVal (k ++ zeros (32 - k.length))
  rw [hlen] at hlt hbytes
  rw [keyRegister, BitVec.toNat_ofNat, Nat.mod_eq_of_lt (by simpa using hlt), hbytes]

theorem keyLengths_le {n : Nat} (h : n ∈ keyLengths) : n ≤ 32 := by
  revert n; decide

theorem tagSizes_le {n : Nat} (h : n ∈ tagSizes) : n ≤ 16 := by
  revert n; decide

/-- An EMPTY slot meets the invariants (R34, R35). -/
theorem State.SessionInv.of_empty {s : State} (h : s.slot = Slot.empty) : s.SessionInv := by
  have hv : s.slot.valid ≠ true := by rw [h]; decide
  constructor <;> intro hvalid
  case empty => exact h
  all_goals exact absurd hvalid hv

/-- The invariants speak of the slot and of CIPHER alone. -/
theorem State.SessionInv.congr {s t : State} (hs : s.SessionInv) (hslot : t.slot = s.slot) (hpoints : t.points = s.points) :
    t.SessionInv where
  keylen := hslot ▸ hs.keylen
  tagsize := hslot ▸ hs.tagsize
  keyTail := hslot ▸ hs.keyTail
  hsub hv := by
    rw [hslot] at hv ⊢
    exact (hs.hsub hv).trans (cipher_congr hpoints.symm _ _)
  j0 := hslot ▸ hs.j0
  ctr := hslot ▸ hs.ctr
  empty := hslot ▸ hs.empty

/-- A session in use keeps the invariants: they bind CTR only while USED is 0 (R30, R35). -/
theorem State.SessionInv.spent {s t : State} {c : Wide} (hs : s.SessionInv) (hv : s.slot.valid = true)
    (hslot : t.slot = { s.slot with used := true, ctr := c }) (hpoints : t.points = s.points) : t.SessionInv where
  keylen _ := by rw [hslot]; exact hs.keylen hv
  tagsize _ := by rw [hslot]; exact hs.tagsize hv
  keyTail _ := by rw [hslot]; exact hs.keyTail hv
  hsub _ := by rw [hslot]; exact (hs.hsub hv).trans (cipher_congr hpoints.symm _ _)
  j0 _ := by rw [hslot]; exact hs.j0 hv
  ctr _ hunused := by rw [hslot] at hunused; cases hunused
  empty hinvalid := by rw [hslot] at hinvalid; exact absurd hv (by simpa using hinvalid)

/-- SESSION_NEW opens a session that meets the invariants (R165). -/
theorem State.SessionInv.opened {s : State} {key nonce : ByteString} {tagSize : Byte} (htag : tagSize.toNat ∈ tagSizes)
    (hkey : key.length ∈ keyLengths) (hnonce : StrFits nonce) :
    ((s.loadKey key tagSize (s.hashKey key)).openSession nonce).SessionInv := by
  have hle := keyLengths_le hkey
  have hlen : (BitVec.ofNat 6 key.length).toNat = key.length := by
    rw [BitVec.toNat_ofNat]; omega
  have htagLen : (tagSize.setWidth 5).toNat = tagSize.toNat := by
    have := tagSizes_le htag
    rw [BitVec.toNat_setWidth]; omega
  have hsession : ((s.loadKey key tagSize (s.hashKey key)).openSession nonce).slot.sessionKey = key := by
    simp [Slot.sessionKey, take_keyRegister key hle, hlen]
  refine ⟨?_, ?_, ?_, ?_, fun _ => ⟨nonce, hnonce, rfl⟩, fun _ _ => rfl, fun h => ?_⟩
  · simpa [hlen] using hkey
  · simpa [htagLen] using htag
  · simp [hlen, beBytes_keyRegister key hle]
  · intro _; rw [hsession]; exact cipher_congr rfl _ _
  · cases h

/-- Every well-formed command keeps the session invariants. -/
theorem exec_keeps_sessionInv {i : Instr} {s t : State} (hi : i.WellFormed) (hs : s.SessionInv)
    (h : exec i s = .next t) : t.SessionInv := by
  have inUse {a b : ByteString} (hab : i = .encrypt a b ∨ i = .decrypt a b) : t.SessionInv := by
    rcases exec_use_cases hab h with ⟨e, -, rfl⟩ | ⟨hr, hslot, hpoints⟩
    · exact hs.congr rfl rfl
    · have hready := (sessionState_eq_ready_iff s.slot).1 ((refusesUse_eq_none_iff s.slot).1 hr)
      exact hs.spent hready.1 hslot hpoints
  by_cases hd : i.Datapath = true
  · obtain ⟨p, hp⟩ := exec_of_datapath hd
    cases (hp s).symm.trans h
    exact hs.congr rfl rfl
  cases i with
  | sessionNew key nonce tagSize =>
    rcases exec_sessionNew_cases h with ⟨hempty, -⟩ | ⟨htag, hkey, -, rfl⟩
    · exact .of_empty hempty
    · exact (State.SessionInv.opened htag hkey hi.2).congr rfl rfl
  | encrypt aad pt => exact inUse (.inl rfl)
  | decrypt aad x => exact inUse (.inr rfl)
  | sessionClear => cases h; exact .of_empty rfl
  | _ => exact absurd rfl hd

/-- Settles O44: every case of a step leaves slot and CIPHER alone, empties the slot, or runs a command, and a decoded
command is well formed. -/
theorem stepKeepsSessionInvariants : Obligations.StepKeepsSessionInvariants := by
  intro s t hs h
  rcases step_cases h with ⟨p, -, rfl⟩ | ⟨-, rfl⟩ | ⟨-, e, -, rfl⟩ | ⟨-, f, i, -, hf, hexec⟩
  · exact hs.congr rfl rfl
  · exact .of_empty rfl
  · exact hs.congr rfl rfl
  · have htaken : State.SessionInv { s with inputs := s.inputs.drop 1 } := hs.congr rfl rfl
    exact exec_keeps_sessionInv (decode_wellFormed hf) htaken hexec

/-- VALID = 0 with USED = 1 does not occur (R34). -/
theorem State.SessionInv.sessionState_ne_impossible {s : State} (hs : s.SessionInv) : s.slot.sessionState ≠ .impossible := by
  intro h
  obtain ⟨hv, hu⟩ := (sessionState_eq_impossible_iff s.slot).1 h
  rw [hs.empty hv] at hu
  cases hu

/-- Settles O49, one clause of R34's table for each of the commands' case lemmas. -/
theorem sessionStatesMoveAsTabled : Obligations.SessionStatesMoveAsTabled := by
  intro s hs
  refine ⟨hs.sessionState_ne_impossible, ?new, ?inUse, ?clear, ?datapath⟩
  case new =>
    intro key nonce tagSize t h
    rcases exec_sessionNew_cases h with ⟨hempty, hresp⟩ | ⟨-, -, -, rfl⟩
    · exact .inr ⟨hresp, by rw [hempty]; rfl⟩
    · exact .inl ⟨rfl, rfl⟩
  case inUse =>
    intro i a b t hi h
    refine ⟨fun hready => exec_use_ready hi hready h, fun hspent => ?_, fun hempty => ?_⟩
    · rw [exec_use_refused hi (refusesUse_of_spent hspent) h]; exact ⟨rfl, rfl⟩
    · rw [exec_use_refused hi (refusesUse_of_empty hempty) h]; exact ⟨rfl, rfl⟩
  case clear =>
    intro t h
    cases h; rfl
  case datapath =>
    intro i t hi h
    obtain ⟨p, hp⟩ := exec_of_datapath hi
    cases (hp s).symm.trans h; rfl

/-- Settles O10: each register of R36 reads 0 in State.reset, which is where the host's machine starts. -/
theorem resetValuesAreTheSpecs : Obligations.ResetValuesAreTheSpecs := by
  have hkey : beBytes 32 State.reset.slot.key.toNat = zeros 32 := by decide
  have hidle : State.reset.phase = .idle := rfl
  exact ⟨rfl, rfl, rfl, hkey, rfl, rfl, rfl, rfl, fun r hr => (by cases hidle.symm.trans hr), hidle, rfl⟩

/-- The reset state has made no request and waits for none. -/
theorem reset_requestsInv : State.reset.RequestsInv where
  legal _ hr := absurd hr List.not_mem_nil
  outstanding _ hr := by cases hr

/-- Settles O45: the slot is EMPTY, and nothing has been requested or answered. -/
theorem resetMeetsTheInvariants : Obligations.ResetMeetsTheInvariants :=
  ⟨.of_empty rfl, reset_requestsInv, fun _ hr => absurd hr List.not_mem_nil⟩

end Sys2Proof.Machine
end

section
/-! PROOFS. Strings longer than MAX_LEN (spec/20_memory.md R55, spec/30_encoding.md R74). -/

namespace Sys2Proof

section Overlong
variable {n : Nat} (hmax : Config.maxLen < n) (hn : n < 2 ^ 64) (rest : ByteString)
include hmax hn

/-- A STR field is not read past its length bytes when they give more than MAX_LEN. -/
theorem readField_str_overlong : readField .str (beBytes 8 n ++ rest) = none := by
  have hval : beVal (beBytes 8 n) = n := by rw [beVal_beBytes, Nat.mod_eq_of_lt (by simpa using hn)]
  simp [readField, hval, hmax]

/-- R74's loop stops at an overlong string, whatever fields it has read before. -/
theorem readFields_overlong (vs : List Operand) (hvs : ∀ v ∈ vs, v.Fits) (ts : List FieldType) :
    readFields (vs.map Operand.type ++ .str :: ts) (operandBytes vs ++ (beBytes 8 n ++ rest)) = none := by
  induction vs with
  | nil => simp [operandBytes, readFields, readField_str_overlong hmax hn]
  | cons v vs ih =>
    obtain ⟨hv, hvs⟩ := List.forall_mem_cons.1 hvs
    have hread := readField_bytes v (operandBytes vs ++ (beBytes 8 n ++ rest)) hv
    have hbytes : operandBytes (v :: vs) ++ (beBytes 8 n ++ rest) =
        v.bytes ++ (operandBytes vs ++ (beBytes 8 n ++ rest)) := List.append_assoc _ _ _
    rw [hbytes, List.map_cons, List.cons_append, readFields, hread]
    simp only [ih hvs]

/-- An overlong string in the place of any STR field of its format makes a frame malformed. -/
theorem decode_overlong {op : Byte} {ts : List FieldType} (vs : List Operand) (hvs : ∀ v ∈ vs, v.Fits)
    (hop : formatOf op = some (vs.map Operand.type ++ .str :: ts)) :
    decode (op :: (operandBytes vs ++ (beBytes 8 n ++ rest))) = .malformedCommand := by
  simp only [decode, hop, readFields_overlong hmax hn rest vs hvs ts]

end Overlong

/-- The formats FS, FSS and FNEW begin with a string (R72, R73). -/
theorem formatOf_firstString :
    ∀ op ∈ ([0x10, 0x30, 0x40, 0x41, 0x42] : List Byte), ∃ ts, formatOf op = some (.str :: ts) := by
  intro op hop
  fin_cases hop <;> exact ⟨_, rfl⟩

/-- The formats FSS and FNEW begin with two strings (R72, R73). -/
theorem formatOf_secondString :
    ∀ op ∈ ([0x30, 0x40, 0x41, 0x42] : List Byte), ∃ ts, formatOf op = some (.str :: .str :: ts) := by
  intro op hop
  fin_cases hop <;> exact ⟨_, rfl⟩

/-- Settles O6: each clause names the fields that stand before the overlong string. -/
theorem overlongStringsAreMalformed : Obligations.OverlongStringsAreMalformed := by
  intro n rest hmax hn
  refine ⟨fun op hop => ?first, fun op hop a ha => ?second, fun init h => ?ghashFirst, fun init h a ha => ?ghashSecond⟩
  case first =>
    obtain ⟨ts, hts⟩ := formatOf_firstString op hop
    exact decode_overlong hmax hn rest [] (by simp) hts
  case second =>
    obtain ⟨ts, hts⟩ := formatOf_secondString op hop
    simpa [operandBytes, Operand.bytes] using
      decode_overlong hmax hn rest [.str a] (by simpa [Operand.Fits] using ha) hts
  case ghashFirst =>
    simpa [operandBytes, Operand.bytes] using
      decode_overlong (op := 0x21) hmax hn rest [.blk init, .blk h] (by simp [Operand.Fits]) rfl
  case ghashSecond =>
    simpa [operandBytes, Operand.bytes] using
      decode_overlong (op := 0x21) hmax hn rest [.blk init, .blk h, .str a] (by simpa [Operand.Fits] using ha) rfl

end Sys2Proof
end

section
/-! PROOFS. How a frame is taken and how a command ends (spec/20_memory.md R56, R58, spec/60_exceptions.md R215,
spec/70_reset_and_hazards.md R249). -/

namespace Sys2Proof.Machine

/-- A step with a frame at hand receives it, and it is then consumed. -/
theorem step_of_frame {s : State} {f : ByteString} {rest : List Input} (h : s.inputs = .frame f :: rest) :
    step s = receiveFrame f { s with inputs := rest } := by
  simp only [step, h, receive]

/-- An idle core accepts the frame it receives. -/
theorem receiveFrame_of_idle {s : State} (f : ByteString) (h : s.phase = .idle) : receiveFrame f s = acceptFrame f s := by
  simp only [receiveFrame, h]

/-- An accepted frame that decodes to a command runs it (R74). -/
theorem acceptFrame_of_command {f : ByteString} {i : Instr} (s : State) (h : decode f = .command i) :
    acceptFrame f s = exec i s := by
  simp only [acceptFrame, h]

/-- Settles O8: the frame is received, accepted by the idle core and run. -/
theorem stepRunsTheDecodedCommand : Obligations.StepRunsTheDecodedCommand := by
  intro s f rest i hidle hin hf
  calc step s = receiveFrame f { s with inputs := rest } := step_of_frame hin
    _ = acceptFrame f { s with inputs := rest } := receiveFrame_of_idle f hidle
    _ = exec i { s with inputs := rest } := acceptFrame_of_command _ hf

/-- A command begun in s ended in t: the outside is untouched, each request used one draw, and there is one response in the
phase of before, or none and the core waits for its last request (R215, R249). It does not speak of the slot. -/
def State.EndsIn (s t : State) : Prop :=
  t.inputs = s.inputs ∧ t.points = s.points ∧
  (∃ rs, t.requests = s.requests ++ rs ∧ t.draws = s.draws.drop rs.length) ∧
  ((∃ r, t.responses = s.responses ++ [r] ∧ t.phase = s.phase) ∨
   (∃ r, t.responses = s.responses ∧ t.phase = .waiting r ∧ t.requests.getLast? = some r))

/-- The scrub on entry writes the slot alone (R165, R168). -/
theorem scrub_endsIn_iff {s t : State} : s.scrub.EndsIn t ↔ s.EndsIn t := Iff.rfl

/-- Spending the session on entry writes the slot alone (R166, R167). -/
theorem spend_endsIn_iff {s t : State} : s.spend.EndsIn t ↔ s.EndsIn t := Iff.rfl

/-- A command ends with one response after its requests. -/
theorem State.Extends.endsIn_respond {s u : State} (h : s.Extends u) (hp : u.phase = s.phase) (r : ByteString) :
    s.EndsIn (u.respond r) := by
  obtain ⟨rs, hrs, hdraws, -⟩ := h.requests
  exact ⟨h.inputs, h.points, ⟨rs, hrs, hdraws⟩, .inl ⟨r, congrArg (· ++ [r]) h.responses, hp⟩⟩

/-- A command ends without a response where it waits for its last request. -/
theorem State.Extends.endsIn_waiting {s u : State} (h : s.Extends u) {r : Request} (hp : u.phase = .waiting r)
    (hr : u.requests.getLast? = some r) : s.EndsIn u := by
  obtain ⟨rs, hrs, hdraws, -⟩ := h.requests
  exact ⟨h.inputs, h.points, ⟨rs, hrs, hdraws⟩, .inr ⟨r, h.responses, hp, hr⟩⟩

/-- A command whose first part is c ends as it should when what follows c does. -/
theorem Call.From.bind_finish_endsIn {α : Type} {s t : State} {c : Call α} {f : α → State → Call Payload}
    (hc : c.From s) (h : (c.bind f).finish = .next t)
    (hf : ∀ a u, s.Extends u → u.phase = s.phase → (f a u).finish = .next t → s.EndsIn t) : s.EndsIn t := by
  cases c with
  | done a u => exact hf a u hc.1 hc.2 h
  | raised e u =>
    cases h
    obtain ⟨hu, hp, -⟩ := hc
    exact hu.endsIn_respond hp _
  | waits u =>
    cases h
    obtain ⟨hu, r, hp, hr⟩ := hc
    exact hu.endsIn_waiting hp hr
  | broken r => cases h

/-- The end of a whole command. -/
theorem Call.From.finish_endsIn {s t : State} {c : Call Payload} (hc : c.From s) (h : c.finish = .next t) :
    s.EndsIn t := by
  have hbind : (c.bind .done).finish = .next t := by cases c <;> exact h
  refine hc.bind_finish_endsIn hbind fun p u hu hp hdone => ?_
  cases hdone
  exact hu.endsIn_respond hp _

/-- SESSION_NEW: the registers it writes before and after its one request are all in the slot (R165). -/
theorem sessionNewBody_endsIn {key nonce : ByteString} {tagSize : Byte} {s t : State}
    (h : (sessionNewBody key nonce tagSize s).finish = .next t) : s.EndsIn t := by
  unfold sessionNewBody at h
  split at h
  · cases h; exact (State.Extends.refl s).endsIn_respond rfl _
  · split at h
    · cases h; exact (State.Extends.refl s).endsIn_respond rfl _
    · refine (callE_from key (zeros 16) s).bind_finish_endsIn h fun hash u hu hp hdone => ?_
      cases hdone
      exact hu.endsIn_respond hp _

/-- ENCRYPT and DECRYPT: an error's response, or the end of a body that began when the session was spent (R166, R167). -/
theorem exec_use_endsIn {i : Instr} {a b : ByteString} {s t : State} (hi : i = .encrypt a b ∨ i = .decrypt a b)
    (h : exec i s = .next t) : s.EndsIn t := by
  cases hr : s.slot.refusesUse with
  | some e =>
    rw [exec_use_refused hi hr h]
    exact (State.Extends.refl s).endsIn_respond rfl _
  | none =>
    rcases hi with rfl | rfl <;> simp only [exec, execEncrypt, execDecrypt, hr] at h
    · exact spend_endsIn_iff.1 ((encryptBody_from a b s.spend).finish_endsIn h)
    · exact spend_endsIn_iff.1 ((decryptBody_from a b s.spend).finish_endsIn h)

/-- Settles O43: a datapath command and SESSION_CLEAR respond at once, the others end as their bodies do. -/
theorem oneResponseForEachCommand : Obligations.OneResponseForEachCommand := by
  intro i s t h
  change s.EndsIn t
  by_cases hd : i.Datapath = true
  · obtain ⟨p, hp⟩ := exec_of_datapath hd
    cases (hp s).symm.trans h
    exact (State.Extends.refl s).endsIn_respond rfl _
  cases i with
  | sessionNew key nonce tagSize => exact scrub_endsIn_iff.1 (sessionNewBody_endsIn h)
  | encrypt aad pt => exact exec_use_endsIn (.inl rfl) h
  | decrypt aad x => exact exec_use_endsIn (.inr rfl) h
  | sessionClear => cases h; exact scrub_endsIn_iff.1 ((State.Extends.refl s.scrub).endsIn_respond rfl _)
  | _ => exact absurd rfl hd

end Sys2Proof.Machine
end

section
/-! PROOFS. Decode and encode are inverse to each other, and a frame is exact (spec/30_encoding.md R70 to R77). -/

namespace Sys2Proof

/-- Every command has the layout of its row in the opcode map (R72, R73). -/
theorem layout_statement : ∀ i : Instr, Laws.Layout.Statement i
  | .wiFromBytes s => Laws.Layout.wiFromBytes s
  | .wiFromHalves hi lo => Laws.Layout.wiFromHalves hi lo
  | .wiToBytes a => Laws.Layout.wiToBytes a
  | .wiXor a b => Laws.Layout.wiXor a b
  | .wiAnd a b => Laws.Layout.wiAnd a b
  | .wiShr1 a => Laws.Layout.wiShr1 a
  | .wiInc a => Laws.Layout.wiInc a
  | .wiEq a b => Laws.Layout.wiEq a b
  | .gfMul x y => Laws.Layout.gfMul x y
  | .ghash init h aad c => Laws.Layout.ghash init h aad c
  | .tsEqual a b => Laws.Layout.tsEqual a b
  | .sessionNew key nonce tagSize => Laws.Layout.sessionNew key nonce tagSize
  | .encrypt aad pt => Laws.Layout.encrypt aad pt
  | .decrypt aad x => Laws.Layout.decrypt aad x
  | .sessionClear => Laws.Layout.sessionClear

@[simp] theorem operandBytes_nil : operandBytes [] = [] := rfl

@[simp] theorem operandBytes_cons (v : Operand) (vs : List Operand) :
    operandBytes (v :: vs) = v.bytes ++ operandBytes vs := rfl

/-- R74's loop reads back the fields the encoder wrote and leaves what follows them. -/
theorem readFields_operandBytes (vs : List Operand) (hvs : ∀ v ∈ vs, v.Fits) (rest : ByteString) :
    readFields (vs.map Operand.type) (operandBytes vs ++ rest) = some (vs, rest) := by
  induction vs with
  | nil => rfl
  | cons v vs ih =>
    obtain ⟨hv, hvs⟩ := List.forall_mem_cons.1 hvs
    have hread := readField_bytes v (operandBytes vs ++ rest) hv
    rw [operandBytes_cons, List.append_assoc, List.map_cons, readFields, hread]
    simp only [ih hvs]

/-- The frame of a well-formed command with bytes after it: the command if there are none, else malformed (R74, R75). -/
theorem decode_encode_append {i : Instr} (hi : i.WellFormed) (extra : ByteString) :
    decode (encode i ++ extra) = if extra = [] then .command i else .malformedCommand := by
  obtain ⟨hformat, hassemble⟩ := layout_statement i
  have hread := readFields_operandBytes (operandsOf i) ((wellFormed_iff_operandsOf_fit i).1 hi) extra
  simp only [encode, List.cons_append, decode, hformat, hread]
  cases extra with
  | nil => simp only [hassemble, if_true]
  | cons b bs => rfl

/-- The first n bytes of a string that has as many are the encoding of their value (R12). -/
theorem beBytes_beVal_take {n : Nat} {f : ByteString} (h : n ≤ f.length) : beBytes n (beVal (f.take n)) = f.take n := by
  simpa [h] using beBytes_beVal (f.take n)

/-- A field that was read is the front of the frame (R71, R74). -/
theorem bytes_append_of_readField {t : FieldType} {f rest : ByteString} {v : Operand}
    (h : readField t f = some (v, rest)) : v.bytes ++ rest = f := by
  cases t with
  | blk =>
    simp only [readField, Option.ite_none_left_eq_some, Option.some.injEq, Prod.mk.injEq] at h
    obtain ⟨hlen, rfl, rfl⟩ := h
    rw [Operand.bytes, be16_val _ (List.length_take_of_le (Nat.le_of_not_lt hlen)), List.take_append_drop]
  | u64 =>
    simp only [readField, Option.ite_none_left_eq_some, Option.some.injEq, Prod.mk.injEq] at h
    obtain ⟨hlen, rfl, rfl⟩ := h
    rw [Operand.bytes, BitVec.toNat_ofNat, show 2 ^ 64 = 256 ^ 8 from rfl, beBytes_mod 8 8 _ le_rfl,
      beBytes_beVal_take (Nat.le_of_not_lt hlen), List.take_append_drop]
  | u8 =>
    cases f with
    | nil => cases h
    | cons b f => cases h; rfl
  | str =>
    simp only [readField, Option.ite_none_left_eq_some, Option.ite_none_right_eq_some, Option.some.injEq,
      Prod.mk.injEq] at h
    obtain ⟨hlen, -, hfit, rfl, rfl⟩ := h
    have hlength := List.length_take_of_le (Nat.le_of_not_lt hfit)
    rw [Operand.bytes, hlength, List.append_assoc, List.take_append_drop,
      beBytes_beVal_take (Nat.le_of_not_lt hlen), List.take_append_drop]

/-- The fields that were read, one after the other, are the front of the frame. -/
theorem operandBytes_append_of_readFields {ts : List FieldType} {f rest : ByteString} {vs : List Operand}
    (h : readFields ts f = some (vs, rest)) : operandBytes vs ++ rest = f := by
  induction ts generalizing f vs with
  | nil => cases h; rfl
  | cons t ts ih =>
    simp only [readFields] at h
    split at h
    · cases h
    next v f' hv =>
      split at h
      · cases h
      next vs' tail hvs =>
        cases h
        rw [operandBytes_cons, List.append_assoc, ih hvs, bytes_append_of_readField hv]

/-- The opcode a command was assembled from is its opcode (R73). -/
theorem opcodeOf_assemble {op : Byte} {vs : List Operand} {i : Instr} (h : assemble op vs = some i) :
    opcodeOf i = op := by
  unfold assemble at h
  split at h <;> repeat' split at h
  all_goals cases h
  all_goals exact Eq.symm ‹op = _›

/-- Every frame that decodes is the encoding of its command (R75). -/
theorem encode_of_decode {f : ByteString} {i : Instr} (h : decode f = .command i) : encode i = f := by
  unfold decode at h
  split at h
  · cases h
  · split at h
    · cases h
    · split at h
      next vs hread =>
        split at h
        next hasm =>
          cases h
          rw [encode, opcodeOf_assemble hasm, operandsOf_assemble hasm, ← operandBytes_append_of_readFields hread,
            List.append_nil]
        · cases h
      · cases h

/-- Settles O2: the frame with nothing after it. -/
theorem decodeOfEncodeIsTheCommand : Obligations.DecodeOfEncodeIsTheCommand := by
  intro i hi
  simpa using decode_encode_append hi []

/-- Settles O3. -/
theorem onlyEncodingsDecode : Obligations.OnlyEncodingsDecode :=
  fun _ _ h => ⟨decode_wellFormed h, encode_of_decode h⟩

/-- A frame is illegal exactly when its opcode has no format (R74, R76). -/
theorem decode_eq_illegal_iff (op : Byte) (rest : ByteString) :
    decode (op :: rest) = .illegalCommand ↔ formatOf op = none := by
  simp only [decode]
  cases formatOf op with
  | none => exact iff_of_true rfl rfl
  | some fields =>
    refine iff_of_false ?_ (Option.some_ne_none fields)
    dsimp only
    split
    · split <;> exact Decoded.noConfusion
    · exact Decoded.noConfusion

/-- Settles O4. A frame cut short is not illegal, for its opcode is in the map; were it a command's frame, the whole frame
would be that one with bytes after it. -/
theorem framesAreExact : Obligations.FramesAreExact := by
  intro i hi
  have trailing {j : Instr} (hj : j.WellFormed) {extra : ByteString} (hne : extra ≠ []) :
      decode (encode j ++ extra) = .malformedCommand := by rw [decode_encode_append hj, if_neg hne]
  refine ⟨fun n hn hlt => ?short, fun extra hne => trailing hi hne⟩
  cases hdec : decode ((encode i).take n) with
  | malformedCommand => rfl
  | illegalCommand =>
    obtain ⟨m, rfl⟩ := Nat.exists_eq_add_of_le' hn
    have hnone := (decode_eq_illegal_iff _ _).1 hdec
    rw [(layout_statement i).1] at hnone
    cases hnone
  | command j =>
    have hwhole : decode (encode j ++ (encode i).drop n) = .command i := by
      rw [encode_of_decode hdec, List.take_append_drop]
      exact decodeOfEncodeIsTheCommand i hi
    have hne : (encode i).drop n ≠ [] := by simpa using hlt
    rw [trailing (decode_wellFormed hdec) hne] at hwhole
    cases hwhole

/-- The opcodes outside the map (R76). -/
theorem formatOf_eq_none_iff (op : Byte) :
    formatOf op = none ↔
      op.toNat ≤ 0x0F ∨ (0x18 ≤ op.toNat ∧ op.toNat ≤ 0x1F) ∨ (0x22 ≤ op.toNat ∧ op.toNat ≤ 0x2F) ∨
        (0x31 ≤ op.toNat ∧ op.toNat ≤ 0x3F) ∨ 0x44 ≤ op.toNat := by
  have hmap : formatOf op = none ↔ ∀ row ∈ opcodeMap, op ≠ row.1 := by
    simp [formatOf, List.lookup_eq_none_iff]
  simp only [hmap, opcodeMap, List.forall_mem_cons, List.not_mem_nil, false_imp_iff, implies_true, and_true]
  bv_omega

/-- Settles O5: the opcode alone decides. -/
theorem opcodeIsCheckedFirst : Obligations.OpcodeIsCheckedFirst :=
  ⟨rfl, fun op rest => (decode_eq_illegal_iff op rest).trans (formatOf_eq_none_iff op)⟩

end Sys2Proof
end

section
/-! PROOFS. Which responses a step can add (spec/30_encoding.md R76, R79, R80, spec/60_exceptions.md R212, R214). -/

namespace Sys2Proof.Machine

/-- An OK response is legal, whatever its payload (R78). -/
theorem legalResponse_ok (p : Payload) : LegalResponse (okResponse p) := .inl rfl

/-- The response of every error but the one that is never raised is legal (R79, R80, R212). -/
theorem legalResponse_error {e : CommandError} (h : e ≠ .invalidBlockSize) : LegalResponse (errorResponse e) := by
  cases e with
  | invalidBlockSize => exact absurd rfl h
  | backendError code => exact .inr (.inr ⟨_, beBytes_length 4 _, rfl⟩)
  | _ => exact .inr (.inl (by decide))

/-- Every response so far is legal. -/
def State.ResponsesLegal (s : State) : Prop := ∀ r ∈ s.responses, LegalResponse r

theorem State.ResponsesLegal.respond {s : State} {r : ByteString} (hs : s.ResponsesLegal) (hr : LegalResponse r) :
    (s.respond r).ResponsesLegal :=
  List.forall_mem_append.2 ⟨hs, List.forall_mem_singleton.2 hr⟩

/-- What a part of a command must do for its command to keep every response legal: add no response of its own, and not
raise InvalidBlockSize. -/
def Call.KeepsLegal {α : Type} : Call α → Prop
  | .done _ t => t.ResponsesLegal
  | .raised e t => t.ResponsesLegal ∧ e ≠ .invalidBlockSize
  | .waits t => t.ResponsesLegal
  | .broken _ => True

/-- A part begun with legal responses leaves them legal: it never responds, and raises the engine's errors alone. -/
theorem Call.From.keepsLegal {α : Type} {s : State} {c : Call α} (hc : c.From s) (hs : s.ResponsesLegal) :
    c.KeepsLegal := by
  have same {t : State} (h : s.Extends t) : t.ResponsesLegal := by
    rw [State.ResponsesLegal, h.responses]; exact hs
  cases c with
  | done a t => exact same hc.1
  | raised e t =>
    obtain ⟨ht, -, he⟩ := hc
    refine ⟨same ht, ?_⟩
    rcases he with ⟨code, rfl⟩ | rfl <;> exact CommandError.noConfusion
  | waits t => exact same hc.1
  | broken r => trivial

/-- SESSION_NEW raises the tag size's error, the key length's and the cipher agent's (R165). -/
theorem sessionNewBody_keepsLegal (key nonce : ByteString) (tagSize : Byte) {s : State} (hs : s.ResponsesLegal) :
    (sessionNewBody key nonce tagSize s).KeepsLegal := by
  unfold sessionNewBody
  split
  · exact ⟨hs, CommandError.noConfusion⟩
  · split
    · exact ⟨hs, CommandError.noConfusion⟩
    · have hcall := (callE_from key (zeros 16) s).keepsLegal hs
      cases hc : callE key (zeros 16) s <;> rw [hc] at hcall <;> exact hcall

/-- The end of a command adds one legal response or none. -/
theorem Call.KeepsLegal.finish {c : Call Payload} {t : State} (hc : c.KeepsLegal) (h : c.finish = .next t) :
    t.ResponsesLegal := by
  cases c with
  | done p u => cases h; exact State.ResponsesLegal.respond hc (legalResponse_ok p)
  | raised e u => cases h; exact hc.1.respond (legalResponse_error hc.2)
  | waits u => cases h; exact hc
  | broken r => cases h

/-- ENCRYPT and DECRYPT refuse a session with NoSession or SessionAlreadyUsed (R213). -/
theorem refusesUse_ne_invalidBlockSize {c : Slot} {e : CommandError} (h : c.refusesUse = some e) :
    e ≠ .invalidBlockSize := by
  rintro rfl
  unfold Slot.refusesUse at h
  split at h
  · cases h
  · split at h <;> cases h

/-- ENCRYPT and DECRYPT: the refusal's response, or what their bodies end with (R166, R167). -/
theorem exec_use_keepsLegal {i : Instr} {a b : ByteString} {s t : State} (hi : i = .encrypt a b ∨ i = .decrypt a b)
    (hs : s.ResponsesLegal) (h : exec i s = .next t) : t.ResponsesLegal := by
  cases hr : s.slot.refusesUse with
  | some e =>
    rw [exec_use_refused hi hr h]
    exact hs.respond (legalResponse_error (refusesUse_ne_invalidBlockSize hr))
  | none =>
    have hspend : s.spend.ResponsesLegal := hs
    rcases hi with rfl | rfl <;> simp only [exec, execEncrypt, execDecrypt, hr] at h
    · exact ((encryptBody_from a b s.spend).keepsLegal hspend).finish h
    · exact ((decryptBody_from a b s.spend).keepsLegal hspend).finish h

/-- Every command keeps every response legal. -/
theorem exec_keepsLegal {i : Instr} {s t : State} (hs : s.ResponsesLegal) (h : exec i s = .next t) :
    t.ResponsesLegal := by
  by_cases hd : i.Datapath = true
  · obtain ⟨p, hp⟩ := exec_of_datapath hd
    cases (hp s).symm.trans h
    exact hs.respond (legalResponse_ok p)
  cases i with
  | sessionNew key nonce tagSize =>
    have hscrub : s.scrub.ResponsesLegal := hs
    exact (sessionNewBody_keepsLegal key nonce tagSize hscrub).finish h
  | encrypt aad pt => exact exec_use_keepsLegal (.inl rfl) hs h
  | decrypt aad x => exact exec_use_keepsLegal (.inr rfl) hs h
  | sessionClear =>
    cases h
    have hscrub : s.scrub.ResponsesLegal := hs
    exact hscrub.respond (legalResponse_ok .none)
  | _ => exact absurd rfl hd

/-- Settles O47: a step adds no response, a decode error's, or its command's. -/
theorem stepKeepsResponsesLegal : Obligations.StepKeepsResponsesLegal := by
  intro s t hs h
  have htaken : State.ResponsesLegal { s with inputs := s.inputs.drop 1 } := hs
  rcases step_cases h with ⟨p, -, rfl⟩ | ⟨-, rfl⟩ | ⟨-, e, he, rfl⟩ | ⟨-, f, i, -, -, hexec⟩
  · exact hs
  · exact hs
  · refine htaken.respond (legalResponse_error ?_)
    rcases he with rfl | rfl <;> exact CommandError.noConfusion
  · exact exec_keepsLegal htaken hexec

end Sys2Proof.Machine
end

section
/-! PROOFS. Decode errors and the worked frames (spec/30_encoding.md R74, R80, R82). -/

namespace Sys2Proof.Machine

/-- Settles O7: the frame is received and accepted by the idle core, and aborted with its error. -/
theorem decodeErrorsChangeNothing : Obligations.DecodeErrorsChangeNothing := by
  intro s f rest hidle hin
  have haccept : step s = acceptFrame f { s with inputs := rest } := by
    rw [step_of_frame hin, receiveFrame_of_idle (s := { s with inputs := rest }) f hidle]
  constructor
  all_goals
    intro hf
    rw [haccept, acceptFrame, hf]
    rfl

/-- SESSION_NEW with legal operands and its one request answered (R165). -/
theorem exec_sessionNew_answered {key nonce : ByteString} {tagSize : Byte} {s : State} (htag : tagSize.toNat ∈ tagSizes)
    (hkey : key.length ∈ keyLengths) (hd : s.drawAt 0 = .answered) :
    exec (.sessionNew key nonce tagSize) s =
      .next ((((s.scrub.issue key (zeros 16)).loadKey key tagSize (s.hashKey key)).openSession nonce).respond [0x00]) := by
  have hcall := callE_answered (s := s.scrub) (zeros_length 16) hkey hd
  simp only [exec, execSessionNew, sessionNewBody, if_neg (not_not.2 htag), if_neg (not_not.2 hkey), hcall]
  rfl

/-- Settles O1: each worked frame is the encoding of its command. -/
theorem workedFramesDecodeAndAnswer : Obligations.WorkedFramesDecodeAndAnswer := by
  refine ⟨?xorFrame, fun s => ?xorAnswer, ?newFrame, fun s hd => ?newAnswer⟩
  case xorFrame =>
    refine Eq.trans (congrArg decode ?_) (decodeOfEncodeIsTheCommand _ trivial)
    decide
  case xorAnswer =>
    have hresponse : okResponse (.blk (wideXor 0x000102030405060708090a0b0c0d0e0f 0xffffffffffffffff0000000000000000)) =
        [0x00, 0xff, 0xfe, 0xfd, 0xfc, 0xfb, 0xfa, 0xf9, 0xf8, 0x08, 0x09, 0x0a, 0x0b, 0x0c, 0x0d, 0x0e, 0x0f] := by
      decide
    rw [← hresponse]
    rfl
  case newFrame =>
    have hfits {n : Nat} (hn : n ≤ 32) : StrFits (zeros n) := by
      rw [StrFits, zeros_length]; exact hn.trans maxLen_bounds.1
    refine Eq.trans (congrArg decode ?_) (decodeOfEncodeIsTheCommand _ ⟨hfits ?_, hfits ?_⟩)
    all_goals decide
  case newAnswer =>
    exact ⟨_, exec_sessionNew_answered (by decide) (by decide) hd, rfl⟩

end Sys2Proof.Machine
end

section
/-! PROOFS. The 128-bit value by its bytes and by its halves (spec/40_wideinteger.md R101 to R107,
spec/00_scope.md R12). -/

namespace Sys2Proof

/-- The value of a byte string, byte by byte: Val of R12. -/
theorem beVal_eq_sum (s : ByteString) :
    beVal s = ((List.range s.length).map fun i => (s.getD i 0).toNat * 256 ^ (s.length - 1 - i)).sum := by
  induction s with
  | nil => rfl
  | cons b s ih =>
    rw [List.length_cons, List.range_succ_eq_map, List.map_cons, List.sum_cons, List.map_map, beVal_cons, ih]
    simp [Function.comp_def, Nat.sub_sub, Nat.add_comm 1]

/-- A string of at most 16 bytes keeps its whole value. -/
theorem toNat_val {s : ByteString} (h : s.length ≤ 16) : (val s).toNat = beVal s := by
  have hlt : beVal s < 2 ^ 128 := (beVal_lt s).trans_le (Nat.pow_le_pow_right (n := 256) (by decide) h)
  rw [val, BitVec.toNat_ofNat, Nat.mod_eq_of_lt hlt]

/-- Zeros on the left do not change a value. -/
theorem val_zeros_append (n : Nat) (s : ByteString) : val (zeros n ++ s) = val s := by
  simp [val, beVal_append]

/-- Byte i of an n-byte encoding (R12). -/
theorem getElem_beBytes {n i : Nat} (v : Nat) (h : i < (beBytes n v).length) :
    (beBytes n v)[i] = BitVec.ofNat 8 (v / 256 ^ (n - 1 - i)) := by
  induction n generalizing i with
  | zero => cases h
  | succ n ih =>
    cases i with
    | zero => rfl
    | succ i =>
      have hi : i < (beBytes n v).length := Nat.lt_of_succ_lt_succ h
      have hexp : n + 1 - 1 - (i + 1) = n - 1 - i := by omega
      rw [hexp]; exact ih hi

/-- Byte i of BE16(w) is bits 127 − 8i down to 120 − 8i of w (R12). -/
theorem getElem_be16 {i : Nat} (w : Wide) (h : i < (be16 w).length) :
    (be16 w)[i] = w.extractLsb' (120 - 8 * i) 8 := by
  rw [be16_length] at h
  have hpow : 256 ^ (16 - 1 - i) = 2 ^ (120 - 8 * i) := by
    rw [show 256 = 2 ^ 8 from rfl, ← pow_mul]; congr 1; omega
  simp only [be16, getElem_beBytes, hpow]
  apply BitVec.eq_of_toNat_eq
  rw [BitVec.extractLsb'_toNat, BitVec.toNat_ofNat, Nat.shiftRight_eq_div_pow]

/-- A 128-bit operation that works on each byte apart works byte by byte on the encodings. -/
theorem be16_bytewise {op : Wide → Wide → Wide} {byteOp : Byte → Byte → Byte}
    (h : ∀ a b start, (op a b).extractLsb' start 8 = byteOp (a.extractLsb' start 8) (b.extractLsb' start 8))
    (a b : Wide) : be16 (op a b) = List.zipWith byteOp (be16 a) (be16 b) := by
  apply List.ext_getElem
  · simp
  · intro i _ _
    simp only [List.getElem_zipWith, getElem_be16, h]

theorem be16_xor (a b : Wide) : be16 (a ^^^ b) = List.zipWith (· ^^^ ·) (be16 a) (be16 b) :=
  be16_bytewise (fun _ _ _ => BitVec.extractLsb'_xor) a b

theorem be16_and (a b : Wide) : be16 (a &&& b) = List.zipWith (· &&& ·) (be16 a) (be16 b) :=
  be16_bytewise (fun _ _ _ => BitVec.extractLsb'_and) a b

end Sys2Proof

namespace Sys2Proof.Machine

/-- A string of at most 16 bytes is read whole (R101). -/
theorem fromBytes_of_length_le {b : ByteString} (h : b.length ≤ 16) : fromBytes b = val b := by
  rw [fromBytes, List.take_of_length_le h]

/-- A string of fewer than 16 bytes is extended by zeros on its left (R101). -/
theorem fromBytes_zeros_append {b : ByteString} (h : b.length < 16) :
    fromBytes (zeros (16 - b.length) ++ b) = fromBytes b := by
  have hlen : (zeros (16 - b.length) ++ b).length ≤ 16 := by simp; omega
  rw [fromBytes_of_length_le hlen, fromBytes_of_length_le h.le, val_zeros_append]

/-- ToBytes undoes FromBytes on 16 bytes (R102). -/
theorem be16_fromBytes {b : ByteString} (h : b.length = 16) : be16 (fromBytes b) = b := by
  rw [fromBytes_of_length_le h.le, be16_val b h]

/-- Settles O14: each clause is a fact about Val of the first 16 bytes. -/
theorem fromBytesIsTheBigEndianSum : Obligations.FromBytesIsTheBigEndianSum := by
  refine ⟨fun b => ?sum, fun _ _ => rfl, fun b extra hb => ?rest, fun _ => fromBytes_zeros_append, rfl⟩
  case sum => exact (toNat_val (List.length_take_le 16 b)).trans (beVal_eq_sum _)
  case rest => rw [fromBytes, List.take_left' hb, fromBytes_of_length_le hb.le]

/-- Settles O15: the bytes of BE16, and Val as its inverse on 16 bytes. -/
theorem toBytesAndFromBytesAreInverse : Obligations.ToBytesAndFromBytesAreInverse := by
  refine ⟨fun w => ⟨be16_length w, fun i hi => ?byte⟩, fun b hb => be16_fromBytes hb, fun w => ?value⟩
  case byte =>
    have hi' : i < (toBytes w).length := by rwa [toBytes, be16_length]
    rw [List.getD_eq_getElem _ _ hi']
    exact getElem_be16 w hi'
  case value => rw [toBytes, fromBytes_of_length_le (be16_length w).le, val_be16]

@[simp] theorem toNat_fromHalves (hi lo : Half) : (fromHalves hi lo).toNat = hi.toNat * 2 ^ 64 + lo.toNat := by
  rw [fromHalves, BitVec.toNat_append, ← Nat.shiftLeft_add_eq_or_of_lt lo.isLt, Nat.shiftLeft_eq]

@[simp] theorem hi64_fromHalves (hi lo : Half) : hi64 (fromHalves hi lo) = hi := BitVec.extractLsb'_append_eq_left

@[simp] theorem lo64_fromHalves (hi lo : Half) : lo64 (fromHalves hi lo) = lo := BitVec.extractLsb'_append_eq_right

theorem toNat_hi64 (w : Wide) : (hi64 w).toNat = w.toNat / 2 ^ 64 := by
  have := w.isLt
  rw [hi64, BitVec.extractLsb'_toNat, Nat.shiftRight_eq_div_pow]; omega

theorem toNat_lo64 (w : Wide) : (lo64 w).toNat = w.toNat % 2 ^ 64 := by
  rw [lo64, BitVec.extractLsb'_toNat, Nat.shiftRight_zero]

/-- Settles O16: the value and the two reads of a concatenation. -/
theorem halvesMakeTheValue : Obligations.HalvesMakeTheValue :=
  fun hi lo => ⟨toNat_fromHalves hi lo, hi64_fromHalves hi lo, lo64_fromHalves hi lo⟩

/-- BE16 of two halves is BE8 of each (R103). -/
theorem be16_fromHalves (hi lo : Half) :
    be16 (fromHalves hi lo) = beBytes 8 hi.toNat ++ beBytes 8 lo.toNat := by
  have hlo := lo.isLt
  have hhigh : (hi.toNat * 2 ^ 64 + lo.toNat) / 256 ^ 8 = hi.toNat := by omega
  have hlow : (hi.toNat * 2 ^ 64 + lo.toNat) % 256 ^ 8 = lo.toNat := by omega
  rw [be16, toNat_fromHalves, beBytes_append 8 8, hhigh, ← beBytes_mod 8 8 (_ + _) le_rfl, hlow]

/-- Shr1 by halves is the 128-bit logical shift (R106): bit 63 of the result is the carry. -/
theorem shr1_eq (a : Wide) : shr1 a = a >>> 1 := by
  apply BitVec.eq_of_getLsbD_eq
  intro i hi
  rw [shr1, fromHalves, BitVec.getLsbD_append]
  rcases lt_trichotomy i 63 with hlow | rfl | hhigh
  · have hhalf : 1 + i < 64 := by omega
    rw [if_pos (by omega)]
    simp [lo64, hlow, hhalf]
  · simp [hi64, lo64]
  · have hbit : 64 + (1 + (i - 64)) = 1 + i := by omega
    have hhalf (h : a.getLsbD (1 + i) = true) : 1 + (i - 64) < 64 := by
      have := BitVec.lt_of_getLsbD h
      omega
    rw [if_neg (by omega)]
    simpa [hi64, hbit] using hhalf

/-- Settles O17: every clause is read off the 128-bit shift. -/
theorem shiftRightOneIsTheWideShift : Obligations.ShiftRightOneIsTheWideShift := by
  intro a
  rw [shr1_eq]
  refine ⟨rfl, by rw [BitVec.toNat_ushiftRight, Nat.shiftRight_one], by simp, fun i _ => ?_⟩
  rw [BitVec.getLsbD_ushiftRight, Nat.add_comm]

/-- The carry of Inc by halves is the one out of the low 64 bits. -/
theorem toNat_inc (a : Wide) : (inc a).toNat = (a.toNat + 1) % 2 ^ 128 := by
  have hcarry : BitVec.toNat (if lo64 a = BitVec.allOnes 64 then (1 : Half) else 0) =
      if a.toNat % 2 ^ 64 = 2 ^ 64 - 1 then 1 else 0 := by
    simp only [← BitVec.toNat_inj, toNat_lo64, BitVec.toNat_allOnes]
    split <;> rfl
  have hlt := a.isLt
  rw [inc, toNat_fromHalves, BitVec.toNat_add, BitVec.toNat_add, hcarry, toNat_hi64, toNat_lo64,
    show (1 : Half).toNat = 1 from rfl]
  split <;> omega

/-- Inc by halves is the 128-bit increment (R107). -/
theorem inc_eq (a : Wide) : inc a = a + 1 :=
  BitVec.eq_of_toNat_eq ((toNat_inc a).trans (BitVec.toNat_add a 1).symm)

/-- Settles O18: the carry into bit 32 is arithmetic on the 128-bit sum. -/
theorem incrementIsModTwoToThe128 : Obligations.IncrementIsModTwoToThe128 := by
  refine ⟨fun a => ⟨toNat_inc a, inc_eq a⟩, by decide, fun a hones => ?_⟩
  rw [toNat_inc]
  omega

end Sys2Proof.Machine
end

section
/-! PROOFS. The WI_* commands: frames, responses and corner cases (spec/40_wideinteger.md R109 to R117). -/

namespace Sys2Proof

theorem operandBytes_str (s : ByteString) : operandBytes [.str s] = beBytes 8 s.length ++ s := List.append_nil _

theorem operandBytes_blk (a : Wide) : operandBytes [.blk a] = be16 a := List.append_nil _

theorem operandBytes_blk_blk (a b : Wide) : operandBytes [.blk a, .blk b] = be16 a ++ be16 b := by
  rw [operandBytes_cons, operandBytes_blk]; rfl

theorem operandBytes_u64_u64 (hi lo : Half) :
    operandBytes [.u64 hi, .u64 lo] = beBytes 8 hi.toNat ++ beBytes 8 lo.toNat := by
  rw [operandBytes_cons, operandBytes_cons, operandBytes_nil, List.append_nil]; rfl

/-- A frame whose opcode is in the map but which no well-formed command has is malformed (R74, R75). -/
theorem decode_eq_malformed_of_no_encoding {op : Byte} {f : ByteString} (hop : formatOf op ≠ none)
    (h : ∀ i : Instr, i.WellFormed → encode i ≠ op :: f) : decode (op :: f) = .malformedCommand := by
  cases hdec : decode (op :: f) with
  | command i => exact absurd (encode_of_decode hdec) (h i (decode_wellFormed hdec))
  | illegalCommand => exact absurd ((decode_eq_illegal_iff op f).1 hdec) hop
  | malformedCommand => rfl

end Sys2Proof

namespace Sys2Proof.Machine

/-- Settles O23: the payload of `exec_of_datapath`, as bytes. -/
theorem datapathCommandsArePure : Obligations.DatapathCommandsArePure := by
  intro i hi
  obtain ⟨p, hp⟩ := exec_of_datapath hi
  exact ⟨p.bytes, hp⟩

/-- A string of at least 16 bytes gives its first 16 (R110). -/
theorem be16_fromBytes_of_long {b : ByteString} (h : 16 ≤ b.length) : be16 (fromBytes b) = b.take 16 :=
  be16_val _ (List.length_take_of_le h)

/-- A string of fewer than 16 bytes stands at the low end (R110). -/
theorem be16_fromBytes_of_short {b : ByteString} (h : b.length < 16) :
    be16 (fromBytes b) = zeros (16 - b.length) ++ b := by
  have hlen : (zeros (16 - b.length) ++ b).length = 16 := by simp; omega
  rw [← fromBytes_zeros_append h, be16_fromBytes hlen]

/-- Settles O19: opcode 0x10 is in the map, so its frames that are no encoding are malformed. -/
theorem fromBytesAndFromHalvesCommands : Obligations.FromBytesAndFromHalvesCommands := by
  refine ⟨fun b s => ⟨?strFrame, rfl, be16_fromBytes_of_short, be16_fromBytes_of_long⟩,
    fun f => decode_eq_malformed_of_no_encoding (by decide), be16_fromBytes_of_short (by decide),
    fun hi lo s => ⟨?halvesFrame, ?halvesAnswer, be16_fromHalves hi lo⟩⟩
  case strFrame => exact congrArg (0x10 :: ·) (operandBytes_str b)
  case halvesFrame => exact congrArg (0x11 :: ·) (operandBytes_u64_u64 hi lo)
  case halvesAnswer => rw [← be16_fromHalves]; rfl

theorem exec_wiEq_of_eq {a b : Wide} (h : a = b) (s : State) :
    exec (.wiEq a b) s = .next { s with responses := s.responses ++ [[0x00, 0x01]] } := by
  have heq : wideEq a b = true := decide_eq_true h
  rw [exec, execWiEq, heq]; rfl

theorem exec_wiEq_of_ne {a b : Wide} (h : a ≠ b) (s : State) :
    exec (.wiEq a b) s = .next { s with responses := s.responses ++ [[0x00, 0x00]] } := by
  have hne : wideEq a b = false := decide_eq_false h
  rw [exec, execWiEq, hne]; rfl

/-- Changing one bit changes the value (R117). -/
theorem ne_xor_bit (a : Wide) {i : Nat} (hi : i < 128) : a ≠ a ^^^ (1#128 <<< i) := by
  intro h
  have hbit := congrArg (fun w => w.getLsbD i) h
  simp [hi] at hbit

/-- The payload of WI_TO_BYTES is a string of 16 bytes (R112). -/
theorem payload_bytes_toBytes (a : Wide) : (Payload.str (toBytes a)).bytes = beBytes 8 16 ++ be16 a := by
  rw [Payload.bytes, toBytes, be16_length]

/-- Settles O20: the payload of WI_TO_BYTES has length 16, and one changed bit makes the operands of WI_EQ differ. -/
theorem toBytesAndEqualCommands : Obligations.ToBytesAndEqualCommands := by
  refine ⟨fun a s => ⟨?blkFrame, ?lengthAnswer⟩, fun a b s => ⟨?eqFrame, ?eq, ?ne⟩, fun a i s hi => ?oneBit⟩
  case blkFrame => exact congrArg (0x12 :: ·) (operandBytes_blk a)
  case lengthAnswer => rw [← payload_bytes_toBytes]; rfl
  case eqFrame => exact congrArg (0x17 :: ·) (operandBytes_blk_blk a b)
  case eq => exact fun h => exec_wiEq_of_eq h s
  case ne => exact fun h => exec_wiEq_of_ne h s
  case oneBit => exact exec_wiEq_of_ne (ne_xor_bit a hi) s

/-- Settles O21: both operations work byte by byte on the encodings. -/
theorem xorAndAndCommands : Obligations.XorAndAndCommands := by
  refine ⟨fun a b s => ⟨?xorFrame, ?xorAnswer, be16_xor a b⟩,
    fun a => ⟨BitVec.xor_self, BitVec.xor_zero, BitVec.xor_allOnes⟩, by decide,
    fun a b s => ⟨?andFrame, ?andAnswer, be16_and a b⟩,
    fun a => ⟨BitVec.and_zero, BitVec.and_allOnes, BitVec.and_self⟩, by decide⟩
  case xorFrame => exact congrArg (0x13 :: ·) (operandBytes_blk_blk a b)
  case xorAnswer => rw [← be16_xor]; rfl
  case andFrame => exact congrArg (0x14 :: ·) (operandBytes_blk_blk a b)
  case andAnswer => rw [← be16_and]; rfl

/-- Settles O22: the operations by halves are the 128-bit shift and increment. -/
theorem shiftAndIncrementCommands : Obligations.ShiftAndIncrementCommands := by
  refine ⟨fun a s => ⟨?shrFrame, ?shrAnswer⟩, by decide, by decide, by decide, by decide, by decide,
    fun a s => ⟨?incFrame, ?incAnswer⟩, by decide, by decide, by decide, by decide⟩
  case shrFrame => exact congrArg (0x15 :: ·) (operandBytes_blk a)
  case shrAnswer => rw [← shr1_eq]; rfl
  case incFrame => exact congrArg (0x16 :: ·) (operandBytes_blk a)
  case incAnswer => rw [← inc_eq]; rfl

end Sys2Proof.Machine
end

section
/-! PROOFS. The multiplier as the product of GF(2)[x] modulo POLY (spec/41_field.md R133 to R136). Its algebraic laws are
read off `fieldOf`, which is injective and turns Xor into + and GFMul into *. -/

namespace Sys2Proof.Machine

open Polynomial

/-- The polynomial whose coefficients, from that of x^0 up, are the low n bits of v from bit n − 1 down. -/
noncomputable def lowPoly (v : Wide) (n : Nat) : (ZMod 2)[X] :=
  ∑ i ∈ Finset.range n, if v.getLsbD (n - 1 - i) then X ^ i else 0

theorem polyOf_eq_lowPoly (v : Wide) : polyOf v = lowPoly v 128 := rfl

/-- The bit that n adds is the new constant coefficient. -/
theorem lowPoly_succ (v : Wide) (n : Nat) :
    lowPoly v (n + 1) = X * lowPoly v n + if v.getLsbD n then 1 else 0 := by
  simp only [lowPoly, Finset.sum_range_succ', Finset.mul_sum, mul_ite, mul_zero, pow_succ', pow_zero,
    Nat.add_sub_cancel, Nat.sub_zero, Nat.sub_add_eq, Nat.sub_right_comm n 1]

theorem coeff_polyOf (v : Wide) (i : Nat) : (polyOf v).coeff i = if i < 128 ∧ v.getLsbD (127 - i) then 1 else 0 := by
  have hterm (j : Nat) : (if v.getLsbD (127 - j) then (X : (ZMod 2)[X]) ^ j else 0).coeff i =
      if i = j then (if v.getLsbD (127 - j) then 1 else 0) else 0 := by
    split <;> simp [coeff_X_pow]
  simp only [polyOf, finsetSum_coeff, hterm, Finset.sum_ite_eq, Finset.mem_range, ite_and]

theorem degree_polyOf_lt (v : Wide) : (polyOf v).degree < 128 := by
  refine (degree_lt_iff_coeff_zero _ 128).2 fun i hi => ?_
  rw [coeff_polyOf, if_neg fun h => absurd h.1 (Nat.not_lt.2 hi)]

/-- Each bit is read off its coefficient. -/
theorem getLsbD_eq_coeff_polyOf (v : Wide) {i : Nat} (hi : i < 128) :
    v.getLsbD i = decide ((polyOf v).coeff (127 - i) = 1) := by
  have hlt : 127 - i < 128 := by omega
  have hbit : 127 - (127 - i) = i := by omega
  simp only [coeff_polyOf, hlt, hbit, true_and]
  cases v.getLsbD i <;> decide

theorem polyOf_injective : Function.Injective polyOf := by
  intro v w h
  apply BitVec.eq_of_getLsbD_eq
  intro i hi
  rw [getLsbD_eq_coeff_polyOf v hi, getLsbD_eq_coeff_polyOf w hi, h]

theorem polyOf_xor (a b : Wide) : polyOf (a ^^^ b) = polyOf a + polyOf b := by
  rw [polyOf, polyOf, polyOf, ← Finset.sum_add_distrib]
  refine Finset.sum_congr rfl fun i _ => ?_
  rw [BitVec.getLsbD_xor]
  cases a.getLsbD (127 - i) <;> cases b.getLsbD (127 - i) <;> simp [CharTwo.add_self_eq_zero]

theorem polyOf_zero : polyOf 0 = 0 := by simp [polyOf]

/-- The value with only bit 127 − i set stands for x^i. -/
theorem polyOf_twoPow {i : Nat} (hi : i < 128) : polyOf (BitVec.twoPow 128 (127 - i)) = X ^ i := by
  have hbit (j : Nat) (hj : j ∈ Finset.range 128) :
      (BitVec.twoPow 128 (127 - i)).getLsbD (127 - j) = decide (j = i) := by
    have := Finset.mem_range.1 hj
    rw [BitVec.getLsbD_twoPow, decide_eq_true (by omega), Bool.true_and, decide_eq_decide]
    omega
  rw [polyOf, Finset.sum_congr rfl fun j hj => by rw [hbit j hj]]
  simp [hi]

/-- The identity of R136. -/
theorem polyOf_one : polyOf (BitVec.ofNat 128 (2 ^ 127)) = 1 :=
  (polyOf_twoPow (i := 0) (by decide)).trans (pow_zero X)

/-- R stands for POLY without its leading term (R133). -/
theorem X_pow_add_polyOf_reduction : X ^ 128 + polyOf reduction = reductionPoly := by
  have hbits : reduction = BitVec.twoPow 128 (127 - 7) ^^^ BitVec.twoPow 128 (127 - 2) ^^^
      BitVec.twoPow 128 (127 - 1) ^^^ BitVec.twoPow 128 (127 - 0) := by decide
  have h7 := polyOf_twoPow (i := 7) (by decide)
  have h2 := polyOf_twoPow (i := 2) (by decide)
  have h1 := polyOf_twoPow (i := 1) (by decide)
  have h0 := polyOf_twoPow (i := 0) (by decide)
  rw [hbits, polyOf_xor, polyOf_xor, polyOf_xor, h7, h2, h1, h0]
  unfold reductionPoly
  ring

/-- A right shift raises each exponent by one and drops bit 0. -/
theorem polyOf_shr1 (v : Wide) :
    polyOf (shr1 v) = ∑ i ∈ Finset.range 127, if v.getLsbD (127 - i) then X ^ (i + 1) else 0 := by
  have hbit (i : Nat) (hi : i ∈ Finset.range 127) : (v >>> 1).getLsbD (127 - (i + 1)) = v.getLsbD (127 - i) := by
    have := Finset.mem_range.1 hi
    rw [BitVec.getLsbD_ushiftRight]; congr 1; omega
  have htop : (v >>> 1).getLsbD (127 - 0) = false := by simp
  rw [shr1_eq, polyOf, Finset.sum_range_succ', htop, if_neg Bool.false_ne_true, add_zero]
  exact Finset.sum_congr rfl fun i hi => by rw [hbit i hi]

/-- Multiplication by x is a right shift, with bit 0 for the coefficient of x^128. -/
theorem X_mul_polyOf (v : Wide) : X * polyOf v = polyOf (shr1 v) + if v.getLsbD 0 then X ^ 128 else 0 := by
  calc X * polyOf v = ∑ i ∈ Finset.range 128, if v.getLsbD (127 - i) then X ^ (i + 1) else 0 := by
        simp only [polyOf, Finset.mul_sum, mul_ite, mul_zero, pow_succ']
    _ = _ := by rw [Finset.sum_range_succ, polyOf_shr1]

/-- The update of v differs from multiplication by x by POLY or not at all (R134). -/
theorem X_mul_polyOf_eq_gfShift (v : Wide) :
    X * polyOf v = polyOf (gfShift v) + if v.getLsbD 0 then reductionPoly else 0 := by
  rw [X_mul_polyOf, gfShift]
  split
  · rw [wideXor, polyOf_xor, ← X_pow_add_polyOf_reduction]
    linear_combination -CharTwo.add_self_eq_zero (polyOf reduction)
  · rfl

theorem reductionPoly_monic : reductionPoly.Monic := by
  rw [← X_pow_add_polyOf_reduction]
  exact monic_X_pow_add (degree_polyOf_lt reduction)

theorem degree_reductionPoly : reductionPoly.degree = 128 := by
  rw [← X_pow_add_polyOf_reduction, degree_add_eq_left_of_degree_lt, degree_X_pow]
  · rfl
  · rw [degree_X_pow]; exact degree_polyOf_lt reduction

/-- The element of GF(2)[x] / POLY a value stands for. -/
noncomputable def fieldOf (v : Wide) : AdjoinRoot reductionPoly := AdjoinRoot.mk reductionPoly (polyOf v)

theorem fieldOf_zero : fieldOf 0 = 0 := by rw [fieldOf, polyOf_zero, map_zero]

theorem fieldOf_one : fieldOf (BitVec.ofNat 128 (2 ^ 127)) = 1 := by rw [fieldOf, polyOf_one, map_one]

theorem fieldOf_xor (a b : Wide) : fieldOf (a ^^^ b) = fieldOf a + fieldOf b := by
  rw [fieldOf, polyOf_xor, map_add]; rfl

/-- Only 0 stands for 0: POLY has a greater degree than the polynomial of a value (R133). -/
theorem eq_zero_of_fieldOf_eq_zero {v : Wide} (h : fieldOf v = 0) : v = 0 := by
  have hdegree : (polyOf v).degree < reductionPoly.degree := by
    rw [degree_reductionPoly]; exact degree_polyOf_lt v
  have hpoly : polyOf v = 0 := by
    by_contra hne
    exact AdjoinRoot.mk_ne_zero_of_degree_lt reductionPoly_monic hne hdegree h
  exact polyOf_injective (hpoly.trans polyOf_zero.symm)

/-- Equal elements have Xor 0, and so equal values. -/
theorem fieldOf_injective : Function.Injective fieldOf := by
  intro a b h
  have hxor : fieldOf (a ^^^ b) = 0 := by
    rw [fieldOf_xor, h, ← fieldOf_xor, BitVec.xor_self]; exact fieldOf_zero
  exact BitVec.xor_eq_zero_iff.1 (eq_zero_of_fieldOf_eq_zero hxor)

/-- The update of v multiplies by x (R133, R134). -/
theorem fieldOf_gfShift (v : Wide) : fieldOf (gfShift v) = AdjoinRoot.root reductionPoly * fieldOf v := by
  have hshift := congrArg (AdjoinRoot.mk reductionPoly) (X_mul_polyOf_eq_gfShift v)
  rw [map_add, map_mul, AdjoinRoot.mk_X, apply_ite (AdjoinRoot.mk _), AdjoinRoot.mk_self, map_zero, ite_self,
    add_zero] at hshift
  exact hshift.symm

/-- The iterations that test the low n bits of y add the product of v and their polynomial to z (R134). -/
theorem fieldOf_gfLoop (y : Wide) (n : Nat) (z v : Wide) :
    fieldOf (gfLoop y n z v) = fieldOf z + fieldOf v * AdjoinRoot.mk reductionPoly (lowPoly y n) := by
  induction n generalizing z v with
  | zero => simp [lowPoly]
  | succ n ih =>
    have hz : fieldOf (if y.getLsbD n then wideXor z v else z) =
        fieldOf z + fieldOf v * if y.getLsbD n then 1 else 0 := by
      split
      · rw [wideXor, fieldOf_xor, mul_one]
      · rw [mul_zero, add_zero]
    rw [gfLoop_succ, ih, hz, fieldOf_gfShift, lowPoly_succ, map_add, map_mul, AdjoinRoot.mk_X,
      apply_ite (AdjoinRoot.mk _), map_one, map_zero]
    ring

theorem fieldOf_gfMul (x y : Wide) : fieldOf (gfMul x y) = fieldOf x * fieldOf y := by
  rw [gfMul, fieldOf_gfLoop, fieldOf_zero, zero_add, ← polyOf_eq_lowPoly]; rfl

/-- Settles O29: equality in the quotient is divisibility of the difference. -/
theorem gfMulIsTheReducedPolynomialProduct : Obligations.GfMulIsTheReducedPolynomialProduct := by
  intro x y
  rw [← AdjoinRoot.mk_eq_mk, map_mul]
  exact (fieldOf_gfMul x y).symm

/-- Settles O26, in the commutative ring GF(2)[x] / POLY. -/
theorem gfMulCommutes : Obligations.GfMulCommutes := by
  intro x y
  apply fieldOf_injective
  rw [fieldOf_gfMul, fieldOf_gfMul, mul_comm]

/-- Settles O27, in the ring GF(2)[x] / POLY. -/
theorem gfMulIsAssociativeAndDistributes : Obligations.GfMulIsAssociativeAndDistributes := by
  refine ⟨fun x y z => ?assoc, fun x y z => ?left, fun x y z => ?right⟩
  all_goals apply fieldOf_injective
  case assoc => simp only [fieldOf_gfMul, mul_assoc]
  case left => simp only [fieldOf_gfMul, fieldOf_xor, mul_add]
  case right => simp only [fieldOf_gfMul, fieldOf_xor, add_mul]

theorem gfMul_zero (x : Wide) : gfMul x 0 = 0 :=
  fieldOf_injective (by rw [fieldOf_gfMul, fieldOf_zero, mul_zero])

theorem zero_gfMul (x : Wide) : gfMul 0 x = 0 := (gfMulCommutes 0 x).trans (gfMul_zero x)

/-- The value with only bit 127 set is the identity (R136). -/
theorem gfMul_one (x : Wide) : gfMul x (BitVec.ofNat 128 (2 ^ 127)) = x :=
  fieldOf_injective (by rw [fieldOf_gfMul, fieldOf_one, mul_one])

theorem one_gfMul (x : Wide) : gfMul (BitVec.ofNat 128 (2 ^ 127)) x = x := (gfMulCommutes _ x).trans (gfMul_one x)

/-- Settles O28: 2^127 stands for 1; the last product is evaluated. -/
theorem gfMulZeroAndIdentity : Obligations.GfMulZeroAndIdentity :=
  ⟨fun x => ⟨gfMul_zero x, zero_gfMul x⟩, fun x => ⟨gfMul_one x, one_gfMul x⟩, by decide⟩

end Sys2Proof.Machine
end

section
/-! PROOFS. Padding, the length block and GHASH (spec/41_field.md R130 to R141). -/

namespace Sys2Proof.Machine

theorem padded_of_ne_nil {s : ByteString} (h : s ≠ []) : padded s = s ++ zeros ((16 - s.length % 16) % 16) := by
  rw [padded, if_neg (by simpa using h)]

/-- The padded string is as long as its blocks. -/
theorem padded_length (s : ByteString) : (padded s).length = 16 * ((padded s).length / 16) := by
  have := padded_length_mod s
  omega

/-- Pad16 makes max(1, ceil(|s| / 16)) blocks (R130). -/
theorem pad16_length (s : ByteString) : (pad16 s).length = max 1 ((s.length + 15) / 16) := by
  rcases eq_or_ne s [] with rfl | h
  · rfl
  · have hpos := List.length_pos_iff.2 h
    rw [pad16, blocks16_length, padded_of_ne_nil h, List.length_append, zeros_length]
    omega

theorem pad16_block_length {s b : ByteString} (hb : b ∈ pad16 s) : b.length = 16 :=
  blocks16_block_length (padded_length s).ge hb

theorem pad16_flatten (s : ByteString) : (pad16 s).flatten = padded s := blocks16_flatten (padded_length s)

/-- Settles O24: the blocks together are the padded string. -/
theorem paddingFillsWholeBlocks : Obligations.PaddingFillsWholeBlocks := by
  refine ⟨fun b => ⟨pad16_length b, fun x => pad16_block_length⟩,
    fun b hb => ⟨(16 - b.length % 16) % 16, ?few, ?padding⟩, fun b hb hmod => ?whole, rfl⟩
  case padding => rw [pad16_flatten, padded_of_ne_nil hb]
  case few => exact Nat.mod_lt _ (by decide)
  case whole => rw [pad16_flatten, padded_of_ne_nil hb, hmod]; exact List.append_nil b

/-- The bit length of a string a frame can carry fits in 64 bits (R132). -/
theorem bitLength_lt {s : ByteString} (h : StrFits s) : 8 * s.length < 2 ^ 64 := by
  have hmax := h.trans maxLen_bounds.2
  omega

/-- LenBlock has the bit length of a in its high half and that of c in its low half (R132). -/
theorem lenBlock_eq_fromHalves {a c : ByteString} (hc : StrFits c) :
    lenBlock a c = fromHalves (BitVec.ofNat 64 (8 * a.length)) (BitVec.ofNat 64 (8 * c.length)) := by
  have hlt := bitLength_lt hc
  apply BitVec.eq_of_toNat_eq
  rw [toNat_fromHalves, lenBlock]
  simp only [BitVec.toNat_ofNat]
  omega

/-- Settles O25: the two halves of the block are the bit lengths, which do not wrap. -/
theorem lengthBlockHoldsBothBitLengths : Obligations.LengthBlockHoldsBothBitLengths := by
  intro a c ha hc
  have hhigh : (BitVec.ofNat 64 (8 * a.length)).toNat = 8 * a.length := Nat.mod_eq_of_lt (bitLength_lt ha)
  have hlow : (BitVec.ofNat 64 (8 * c.length)).toNat = 8 * c.length := Nat.mod_eq_of_lt (bitLength_lt hc)
  refine ⟨bitLength_lt ha, bitLength_lt hc, ?value, ?bytes⟩
  case value => rw [lenBlock_eq_fromHalves hc, toNat_fromHalves, hhigh, hlow]
  case bytes => rw [lenBlock_eq_fromHalves hc, be16_fromHalves, hhigh, hlow]

theorem be16_zero : be16 0 = zeros 16 := by decide

theorem exec_gfMul (x y : Wide) (s : State) :
    exec (.gfMul x y) s = .next { s with responses := s.responses ++ [0x00 :: be16 (gfMul x y)] } := rfl

/-- Settles O30: the answer is the product, whose laws give the corner cases; the sample product is evaluated. -/
theorem gfMulCommand : Obligations.GfMulCommand := by
  refine ⟨fun x y s => ⟨?frame, rfl, ?order⟩, fun x s => ⟨?zero, ?one⟩, fun s => ?sample⟩
  case frame => exact congrArg (0x20 :: ·) (operandBytes_blk_blk x y)
  case order => rw [exec_gfMul, exec_gfMul, gfMulCommutes x y]
  case zero => rw [exec_gfMul, gfMul_zero, be16_zero]
  case one =>
    have hone : (0x80000000000000000000000000000000 : Wide) = BitVec.ofNat 128 (2 ^ 127) := rfl
    rw [exec_gfMul, hone, gfMul_one]
  case sample =>
    have hproduct : gfMul 0x0388dace60b6a392f328c2b971b2fe78 0x66e94bd4ef8a2c3b884cfa59ca342b2e =
        0x5e2ec746917062882c85b0685353deb7 := by decide
    rw [exec_gfMul, hproduct]

/-- The folds of a list of blocks, as a fold of the library's. -/
theorem foldBlocks_eq_foldl (h acc : Wide) (bs : List ByteString) :
    foldBlocks h acc bs = bs.foldl (fun acc b => gfMul (acc ^^^ val b) h) acc := by
  induction bs generalizing acc with
  | nil => rfl
  | cons b bs ih => exact ih _

theorem val_zeros (n : Nat) : val (zeros n) = 0 := by rw [val, beVal_zeros]; rfl

/-- The one block of an empty string multiplies the accumulator by H (R138). -/
theorem foldBlocks_pad16_nil (h acc : Wide) : foldBlocks h acc (pad16 []) = gfMul acc h := by
  rw [pad16_nil, foldBlocks, foldBlocks, fold, val_zeros]
  exact congrArg (gfMul · h) BitVec.xor_zero

/-- With init 0 the empty associated data changes nothing (R138). -/
theorem ghash_empty_aad (h : Wide) (c : ByteString) :
    ghash 0 h [] c = gfMul (foldBlocks h 0 (pad16 c) ^^^ lenBlock [] c) h := by
  rw [ghash, foldBlocks_pad16_nil, zero_gfMul]; rfl

/-- Settles O31: an empty string's zero block multiplies by H, and 0 times H is 0. -/
theorem ghashOfEmptyInputs : Obligations.GhashOfEmptyInputs := by
  refine ⟨ghash_empty_aad, fun init h a => ?emptyText, fun h => ?nothing⟩
  case emptyText => rw [ghash, foldBlocks_pad16_nil]; rfl
  case nothing =>
    rw [ghash_empty_aad, foldBlocks_pad16_nil, zero_gfMul]
    exact zero_gfMul h

/-- GHASH as one fold over the blocks of both strings (R137). -/
theorem ghash_eq_foldl (init h : Wide) (a c : ByteString) :
    ghash init h a c =
      gfMul ((pad16 a ++ pad16 c).foldl (fun acc b => gfMul (acc ^^^ val b) h) init ^^^ lenBlock a c) h := by
  rw [List.foldl_append, ← foldBlocks_eq_foldl, ← foldBlocks_eq_foldl]; rfl

theorem ghash_zero_key (init : Wide) (a c : ByteString) : ghash init 0 a c = 0 := gfMul_zero _

theorem operandBytes_ghash (init h : Wide) (aad c : ByteString) :
    operandBytes [.blk init, .blk h, .str aad, .str c] =
      be16 init ++ be16 h ++ (beBytes 8 aad.length ++ aad) ++ (beBytes 8 c.length ++ c) := by
  simp [Operand.bytes]

theorem exec_ghash (init h : Wide) (aad c : ByteString) (s : State) :
    exec (.ghash init h aad c) s =
      .next { s with responses := s.responses ++ [0x00 :: be16 (ghash init h aad c)] } := rfl

/-- Settles O32: opcode 0x21 is in the map, so its frames that are no encoding are malformed. -/
theorem ghashCommand : Obligations.GhashCommand := by
  refine ⟨fun init h aad c s => ⟨?frame, ?answer⟩, fun f => decode_eq_malformed_of_no_encoding (by decide),
    fun init aad c s => ?zeroKey, fun n aad hn hlen => ?blocks, fun s => ?sample⟩
  case frame => exact congrArg (0x21 :: ·) (operandBytes_ghash init h aad c)
  case answer => rw [exec_ghash, ghash_eq_foldl]
  case zeroKey => rw [exec_ghash, ghash_zero_key, be16_zero]
  case blocks => rw [pad16_length]; omega
  case sample =>
    have hhash : ghash 0 0x66e94bd4ef8a2c3b884cfa59ca342b2e [] (be16 0x0388dace60b6a392f328c2b971b2fe78) =
        0xf38cbb1ad69223dcc3457ae5b6b0f885 := by
      have hfold : foldBlocks 0x66e94bd4ef8a2c3b884cfa59ca342b2e 0 (pad16 (be16 0x0388dace60b6a392f328c2b971b2fe78)) =
          0x5e2ec746917062882c85b0685353deb7 := by decide
      rw [ghash_empty_aad, hfold]; decide
    rw [exec_ghash, hhash]

end Sys2Proof.Machine
end

section
/-! PROOFS. Counter mode and the keystream (spec/42_gcm_engine.md R160, R163): what CALL_E and the loop over the blocks
do when every request is answered, and where they stop at the first one that is not. -/

namespace Sys2Proof

/-- Xor of byte strings, byte by byte as `mapIdx` reads them. -/
theorem xorBytes_eq_mapIdx {a b : ByteString} (h : a.length = b.length) :
    xorBytes a b = a.mapIdx fun p x => x ^^^ b.getD p 0 := by
  apply List.ext_getElem
  · simp [h]
  · intro p h1 h2
    have hp : p < b.length := by simp at h2; omega
    simp [xorBytes, hp]

end Sys2Proof

namespace Sys2Proof.Machine

@[simp] theorem counterBlock_zero (c : Wide) : counterBlock c 0 = c := BitVec.add_zero c

theorem counterBlock_succ (c : Wide) (i : Nat) : counterBlock c (i + 1) = inc (counterBlock c i) := by
  rw [inc_eq, counterBlock, BitVec.ofNat_add, ← BitVec.add_assoc]; rfl

/-- The blocks after one increment are the later blocks (R163). -/
theorem counterBlock_inc (c : Wide) (i : Nat) : counterBlock (inc c) i = counterBlock c (i + 1) := by
  rw [inc_eq, counterBlock, counterBlock, BitVec.add_assoc, BitVec.add_comm 1, BitVec.ofNat_add]; rfl

/-! Counter mode. -/

section CounterMode
variable (e : Wide → Wide) (c : Wide)

@[simp] theorem counterMode_nil : counterMode e c [] = [] := rfl

@[simp] theorem counterMode_length (d : ByteString) : (counterMode e c d).length = d.length := List.length_mapIdx

/-- The first block of 16 bytes is xored with E of the next counter value, and the rest follows from there (R163). -/
theorem counterMode_block_append {b : ByteString} (hb : b.length = 16) (d : ByteString) :
    counterMode e c (b ++ d) = xorBytes b (be16 (e (inc c))) ++ counterMode e (inc c) d := by
  have hfirst : xorBytes b (be16 (e (inc c))) =
      b.mapIdx fun p x => x ^^^ (be16 (e (counterBlock c (p / 16 + 1)))).getD (p % 16) 0 := by
    rw [xorBytes_eq_mapIdx (by simp [hb])]
    apply List.mapIdx_eq_mapIdx_iff.2
    intro p hp
    have hdiv : p / 16 = 0 := by omega
    have hmod : p % 16 = p := by omega
    rw [hdiv, hmod, ← counterBlock_inc, counterBlock_zero]
  have hrest (p : Nat) : (p + 16) / 16 = p / 16 + 1 := by omega
  rw [counterMode, List.mapIdx_append, hb, ← hfirst, counterMode]
  simp only [hrest, counterBlock_inc, Nat.add_mod_right]

/-- Bytes after a string do not change what counter mode makes of it (R163). -/
theorem take_counterMode_append (d extra : ByteString) :
    (counterMode e c (d ++ extra)).take d.length = counterMode e c d := by
  rw [counterMode, List.mapIdx_append, List.take_left' List.length_mapIdx]; rfl

/-- Counter mode undoes itself. -/
theorem counterMode_counterMode (d : ByteString) : counterMode e c (counterMode e c d) = d := by
  simp only [counterMode, List.mapIdx_mapIdx, Function.comp_def, BitVec.xor_assoc, BitVec.xor_self, BitVec.xor_zero]
  exact List.mapIdx_eq_iff.2 fun i => by simp

end CounterMode

/-! CALL_E. -/

/-- Of the next n requests all are answered, or there is a first that is not. -/
theorem allAnswered_or_first_unanswered (s : State) (n : Nat) :
    s.AllAnswered n ∨ ∃ m, m < n ∧ s.AllAnswered m ∧ s.drawAt m ≠ .answered := by
  induction n with
  | zero => exact .inl fun i hi => absurd hi (Nat.not_lt_zero i)
  | succ n ih =>
    rcases ih with hall | ⟨m, hm, hfirst⟩
    · by_cases hn : s.drawAt n = .answered
      · exact .inl fun i hi => (Nat.lt_succ_iff_lt_or_eq.1 hi).elim (hall i) fun h => h ▸ hn
      · exact .inr ⟨n, Nat.lt_succ_self n, hall, hn⟩
    · exact .inr ⟨m, Nat.lt_succ_of_lt hm, hfirst⟩

theorem State.AllAnswered.mono {s : State} {m n : Nat} (h : s.AllAnswered n) (hmn : m ≤ n) : s.AllAnswered m :=
  fun i hi => h i (hi.trans_le hmn)

/-- Where a command stops at a request that is not answered, in the state where that request has been made: it raises
BackendError with the code drawn, or it waits for the answer (R160). -/
def Call.stopped {α : Type} (d : Draw) (r : Request) (s : State) : Call α :=
  match d with
  | .failed code => .raised (.backendError code) s
  | .answered | .silent => .waits (s.await r.key r.block)

@[simp] theorem bind_stopped {α β : Type} (d : Draw) (r : Request) (s : State) (f : α → State → Call β) :
    (Call.stopped d r s).bind f = .stopped d r s := by
  cases d <;> rfl

/-- CALL_E stops at a request that is not answered (R160). -/
theorem callE_unanswered {k b : ByteString} {s : State} (hb : b.length = 16) (hk : k.length ∈ keyLengths)
    (hd : s.drawAt 0 ≠ .answered) : callE k b s = .stopped (s.drawAt 0) ⟨k, b⟩ (s.issue k b) := by
  rcases callE_legal k b s hb hk with ⟨h, -⟩ | ⟨code, h, hc⟩ | ⟨h, hc⟩
  · exact absurd h hd
  · rw [hc, h]; rfl
  · rw [hc, h]; rfl

/-! The loop over the blocks. -/

/-- s after n rounds of the loop of Keystream: CTR moved forward by n, one request and one draw for each (R163). -/
def State.afterBlocks (s : State) (k : ByteString) (n : Nat) : State :=
  { s with
    slot := { s.slot with ctr := counterBlock s.slot.ctr n }
    draws := s.draws.drop n
    requests := s.requests ++ (List.range n).map fun i =>
      { key := k, block := be16 (counterBlock s.slot.ctr (i + 1)) } }

@[simp] theorem afterBlocks_zero (s : State) (k : ByteString) : s.afterBlocks k 0 = s := by
  simp [State.afterBlocks]

/-- The request of one round of the loop, made after the increment (R163). -/
def State.nextBlock (s : State) (k : ByteString) : State := s.advanceCtr.issue k (be16 (inc s.slot.ctr))

@[simp] theorem nextBlock_ctr (s : State) (k : ByteString) : (s.nextBlock k).slot.ctr = inc s.slot.ctr := rfl

@[simp] theorem nextBlock_drawAt (s : State) (k : ByteString) (i : Nat) :
    (s.nextBlock k).drawAt i = s.drawAt (i + 1) := by
  simp [State.nextBlock]

@[simp] theorem nextBlock_encipher (s : State) (k k' : ByteString) : (s.nextBlock k).encipher k' = s.encipher k' :=
  funext fun _ => cipher_congr rfl _ _

/-- One round, then n more. -/
theorem nextBlock_afterBlocks (s : State) (k : ByteString) (n : Nat) :
    (s.nextBlock k).afterBlocks k n = s.afterBlocks k (n + 1) := by
  have hfirst : counterBlock s.slot.ctr 1 = inc s.slot.ctr := by rw [← counterBlock_inc, counterBlock_zero]
  simp [State.afterBlocks, State.nextBlock, State.issue, counterBlock_inc, List.range_succ_eq_map, hfirst,
    Function.comp_def, State.advanceCtr, Nat.add_comm]

theorem nextBlock_allAnswered {s : State} {n : Nat} (h : s.AllAnswered (n + 1)) (k : ByteString) :
    (s.nextBlock k).AllAnswered n :=
  fun i hi => (nextBlock_drawAt s k i).trans (h (i + 1) (Nat.succ_lt_succ hi))

/-- One round of the loop whose request is answered. -/
theorem keystreamBlocks_cons_answered {k b : ByteString} {s : State} (hk : k.length ∈ keyLengths)
    (hd : s.drawAt 0 = .answered) (bs : List ByteString) :
    keystreamBlocks k (b :: bs) s = (keystreamBlocks k bs (s.nextBlock k)).bind fun rest u =>
      .done (xorBytes b (be16 (s.encipher k (inc s.slot.ctr))) ++ rest) u := by
  rw [keystreamBlocks, callE_answered (be16_length _) hk (by simpa using hd)]
  simp [State.encipher, State.nextBlock]

/-- The loop with every request answered is counter mode over the blocks (R163). -/
theorem keystreamBlocks_answered {k : ByteString} {bs : List ByteString} {s : State} (hk : k.length ∈ keyLengths)
    (hbs : ∀ b ∈ bs, b.length = 16) (h : s.AllAnswered bs.length) :
    keystreamBlocks k bs s = .done (counterMode (s.encipher k) s.slot.ctr bs.flatten) (s.afterBlocks k bs.length) := by
  induction bs generalizing s with
  | nil => simp [keystreamBlocks]
  | cons b bs ih =>
    obtain ⟨hb, hbs⟩ := List.forall_mem_cons.1 hbs
    rw [keystreamBlocks_cons_answered hk (h 0 (Nat.succ_pos _)), ih hbs (nextBlock_allAnswered h k), bind_done,
      nextBlock_afterBlocks, nextBlock_encipher, nextBlock_ctr, List.flatten_cons, counterMode_block_append _ _ hb]
    rfl

/-- The loop stops at its first request that is not answered (R163, R214). -/
theorem keystreamBlocks_stopped {k : ByteString} {bs : List ByteString} {s : State} {m : Nat}
    (hk : k.length ∈ keyLengths) (hm : m < bs.length) (h : s.AllAnswered m) (hd : s.drawAt m ≠ .answered) :
    keystreamBlocks k bs s =
      .stopped (s.drawAt m) ⟨k, be16 (counterBlock s.slot.ctr (m + 1))⟩ (s.afterBlocks k (m + 1)) := by
  induction bs generalizing s m with
  | nil => exact absurd hm (Nat.not_lt_zero m)
  | cons b bs ih =>
    cases m with
    | zero =>
      rw [keystreamBlocks, callE_unanswered (be16_length _) hk (by simpa using hd), bind_stopped,
        ← nextBlock_afterBlocks, afterBlocks_zero, ← counterBlock_inc, counterBlock_zero]
      rfl
    | succ m =>
      rw [keystreamBlocks_cons_answered hk (h 0 (Nat.succ_pos m)),
        ih (Nat.lt_of_succ_lt_succ hm) (nextBlock_allAnswered h k) (by rwa [nextBlock_drawAt]), bind_stopped,
        nextBlock_drawAt, nextBlock_afterBlocks, nextBlock_ctr, counterBlock_inc]

/-! Keystream. -/

theorem pad16_length_eq_blockCount (d : ByteString) : (pad16 d).length = blockCount d := pad16_length d

/-- Padding only adds bytes at the end (R130). -/
theorem pad16_flatten_eq_append (d : ByteString) : ∃ extra, (pad16 d).flatten = d ++ extra := by
  rw [pad16_flatten, padded]
  split
  next h => exact ⟨zeros 16, by rw [List.length_eq_zero_iff.1 h]; rfl⟩
  next => exact ⟨_, rfl⟩

/-- Keystream with every request answered (R163). -/
theorem keystream_answered {k d : ByteString} {s : State} (hk : k.length ∈ keyLengths)
    (h : s.AllAnswered (blockCount d)) :
    keystream k d s = .done (counterMode (s.encipher k) s.slot.ctr d) (s.afterBlocks k (blockCount d)) := by
  obtain ⟨extra, hextra⟩ := pad16_flatten_eq_append d
  have hloop := keystreamBlocks_answered (bs := pad16 d) hk (fun b => pad16_block_length)
    (by rwa [pad16_length_eq_blockCount])
  rw [keystream, hloop, bind_done, hextra, take_counterMode_append, pad16_length_eq_blockCount]

/-- Keystream stops at its first request that is not answered (R163). -/
theorem keystream_stopped {k d : ByteString} {s : State} {m : Nat} (hk : k.length ∈ keyLengths)
    (hm : m < blockCount d) (h : s.AllAnswered m) (hd : s.drawAt m ≠ .answered) :
    keystream k d s =
      .stopped (s.drawAt m) ⟨k, be16 (counterBlock s.slot.ctr (m + 1))⟩ (s.afterBlocks k (m + 1)) := by
  rw [keystream, keystreamBlocks_stopped hk (by rwa [pad16_length_eq_blockCount]) h hd, bind_stopped]

/-- Settles O36: the loop over the padded blocks, cut to the length of d; xoring twice gives d back. -/
theorem keystreamFollowsItsRule : Obligations.KeystreamFollowsItsRule :=
  fun _ d _ hk h => ⟨keystream_answered hk h, counterMode_length _ _ d, counterMode_counterMode _ _ d⟩

end Sys2Proof.Machine
end

section
/-! PROOFS. ENCRYPT and DECRYPT on a READY session, request by request (spec/42_gcm_engine.md R164, R166, R167, R169):
what they do when every request is answered, and where they stop at the first one that is not. -/

namespace Sys2Proof.Machine

/-! The requests of R169, numbered from 0. -/

/-- Request m of ENCRYPT and DECRYPT: the hash subkey's, then those of the counter blocks from J0 on (R169). -/
def sessionRequest (k : ByteString) (j0 : Wide) : Nat → Request
  | 0 => { key := k, block := zeros 16 }
  | i + 1 => { key := k, block := be16 (counterBlock j0 i) }

/-- The requests from the third on are the keystream's (R169). -/
theorem sessionRequest_two_add (k : ByteString) (j0 : Wide) (i : Nat) :
    sessionRequest k j0 (2 + i) = { key := k, block := be16 (counterBlock j0 (i + 1)) } := by
  rw [Nat.add_comm]; rfl

theorem sessionRequests_eq_map (k : ByteString) (j0 : Wide) (n : Nat) :
    sessionRequests k j0 n = (List.range (n + 2)).map (sessionRequest k j0) := by
  rw [List.range_succ_eq_map, List.map_cons, List.map_map]; rfl

theorem sessionRequests_length (k : ByteString) (j0 : Wide) (n : Nat) : (sessionRequests k j0 n).length = n + 2 := by
  simp [sessionRequests_eq_map]

/-- The first m requests do not depend on how many come after them. -/
theorem take_sessionRequests (k : ByteString) (j0 : Wide) {m n : Nat} (h : m ≤ n + 2) :
    (sessionRequests k j0 n).take m = (List.range m).map (sessionRequest k j0) := by
  rw [sessionRequests_eq_map, ← List.map_take, List.take_range, Nat.min_eq_left h]

theorem getElem?_sessionRequests (k : ByteString) (j0 : Wide) {m n : Nat} (h : m < n + 2) :
    (sessionRequests k j0 n)[m]? = some (sessionRequest k j0 m) := by
  simp [sessionRequests_eq_map, h]

/-- s after the first n requests of ENCRYPT or DECRYPT: CTR stands at the last counter block taken from it (R169). -/
def State.afterRequests (s : State) (n : Nat) : State :=
  { s with
    slot := { s.slot with ctr := counterBlock s.slot.j0 (n - 2) }
    draws := s.draws.drop n
    requests := s.requests ++ (List.range n).map (sessionRequest s.slot.sessionKey s.slot.j0) }

@[simp] theorem afterRequests_drawAt (s : State) (n i : Nat) : (s.afterRequests n).drawAt i = s.drawAt (n + i) := by
  simp [State.drawAt, State.afterRequests, Nat.add_assoc]

theorem afterRequests_j0 (s : State) (n : Nat) : (s.afterRequests n).slot.j0 = s.slot.j0 := rfl

/-- The first two requests leave CTR at J0 (R169). -/
theorem afterRequests_two_ctr (s : State) : (s.afterRequests 2).slot.ctr = s.slot.j0 := counterBlock_zero _

theorem State.AllAnswered.afterRequests {s : State} {m n : Nat} (h : s.AllAnswered (m + n)) :
    (s.afterRequests m).AllAnswered n :=
  fun i hi => (afterRequests_drawAt s m i).trans (h (m + i) (Nat.add_lt_add_left hi m))

/-- The first request, made with CTR at J0. -/
theorem issue_eq_afterRequests {s : State} (hctr : s.slot.ctr = s.slot.j0) :
    s.issue s.slot.sessionKey (zeros 16) = s.afterRequests 1 := by
  have hslot : { s.slot with ctr := counterBlock s.slot.j0 (1 - 2) } = s.slot := by
    rw [show counterBlock s.slot.j0 (1 - 2) = s.slot.ctr from (counterBlock_zero _).trans hctr.symm]
  rw [State.afterRequests, hslot]; rfl

/-- The second request, the tag mask's. -/
theorem afterRequests_one_issue (s : State) :
    (s.afterRequests 1).issue s.slot.sessionKey (be16 s.slot.j0) = s.afterRequests 2 := by
  simp [State.afterRequests, State.issue, List.range_succ, sessionRequest]

/-- The requests of the keystream come after the first two. -/
theorem afterRequests_two_afterBlocks (s : State) (n : Nat) :
    (s.afterRequests 2).afterBlocks s.slot.sessionKey n = s.afterRequests (2 + n) := by
  simp [State.afterRequests, State.afterBlocks, List.range_add, sessionRequest_two_add, Function.comp_def]

/-- All the requests made, with n blocks of keystream (R169). -/
theorem afterRequests_two_add (s : State) (n : Nat) :
    s.afterRequests (2 + n) = { s with
      slot := { s.slot with ctr := counterBlock s.slot.j0 n }
      draws := s.draws.drop (2 + n)
      requests := s.requests ++ sessionRequests s.slot.sessionKey s.slot.j0 n } := by
  rw [State.afterRequests, Nat.add_sub_cancel_left, sessionRequests_eq_map, Nat.add_comm n]

/-- A key register of a legal KEYLEN gives a key of that length (R26). -/
theorem sessionKey_length {c : Slot} (h : c.keylen.toNat ∈ keyLengths) : c.sessionKey.length = c.keylen.toNat := by
  have := keyLengths_le h
  simpa [Slot.sessionKey] using this

theorem State.Ready.sessionKey_legal {s : State} (hs : s.Ready) : s.slot.sessionKey.length ∈ keyLengths := by
  rw [sessionKey_length hs.keylen]; exact hs.keylen

/-! The bodies, started with a legal key and CTR at J0. -/

/-- The output of ENCRYPT on a READY session with every request answered: the ciphertext, then the tag (R166). -/
def State.sealed (s : State) (aad pt : ByteString) : ByteString :=
  counterMode (s.encipher s.slot.sessionKey) s.slot.j0 pt ++
    s.tagFor aad (counterMode (s.encipher s.slot.sessionKey) s.slot.j0 pt)

section Bodies
variable {s : State} (hk : s.slot.sessionKey.length ∈ keyLengths) (hctr : s.slot.ctr = s.slot.j0)
include hk hctr

theorem hashKeyAndMask_answered (h : s.AllAnswered 2) :
    hashKeyAndMask s.slot.sessionKey s =
      .done (s.hashKey s.slot.sessionKey, s.encipher s.slot.sessionKey s.slot.j0) (s.afterRequests 2) := by
  have hmask := callE_answered (s := s.afterRequests 1) (be16_length s.slot.j0) hk
    ((afterRequests_drawAt s 1 0).trans (h 1 (by decide)))
  rw [hashKeyAndMask, callE_answered (zeros_length 16) hk (h 0 (by decide)), bind_done, issue_eq_afterRequests hctr]
  rw [afterRequests_j0, hmask, bind_done, afterRequests_one_issue]
  rfl

theorem hashKeyAndMask_stopped {m : Nat} (hm : m < 2) (h : s.AllAnswered m) (hd : s.drawAt m ≠ .answered) :
    hashKeyAndMask s.slot.sessionKey s =
      .stopped (s.drawAt m) (sessionRequest s.slot.sessionKey s.slot.j0 m) (s.afterRequests (m + 1)) := by
  cases m with
  | zero =>
    rw [hashKeyAndMask, callE_unanswered (zeros_length 16) hk hd, bind_stopped, issue_eq_afterRequests hctr]; rfl
  | succ m =>
    obtain rfl : m = 0 := by omega
    have hdraw : (s.afterRequests 1).drawAt 0 = s.drawAt 1 := afterRequests_drawAt s 1 0
    have hmask := callE_unanswered (s := s.afterRequests 1) (be16_length s.slot.j0) hk (by rwa [hdraw])
    rw [hashKeyAndMask, callE_answered (zeros_length 16) hk (h 0 (by decide)), bind_done, issue_eq_afterRequests hctr]
    rw [afterRequests_j0, hmask, bind_stopped, afterRequests_one_issue, hdraw]
    simp [sessionRequest]

omit hctr in
theorem keystream_after_mask_answered {d : ByteString} (h : s.AllAnswered (2 + blockCount d)) :
    keystream s.slot.sessionKey d (s.afterRequests 2) =
      .done (counterMode (s.encipher s.slot.sessionKey) s.slot.j0 d) (s.afterRequests (2 + blockCount d)) := by
  rw [keystream_answered hk h.afterRequests, afterRequests_two_afterBlocks, afterRequests_two_ctr]; rfl

omit hctr in
theorem keystream_after_mask_stopped {d : ByteString} {m : Nat} (hm : 2 ≤ m) (hmd : m < 2 + blockCount d)
    (h : s.AllAnswered m) (hd : s.drawAt m ≠ .answered) :
    keystream s.slot.sessionKey d (s.afterRequests 2) =
      .stopped (s.drawAt m) (sessionRequest s.slot.sessionKey s.slot.j0 m) (s.afterRequests (m + 1)) := by
  obtain ⟨i, rfl⟩ := Nat.exists_eq_add_of_le hm
  have hdraw : (s.afterRequests 2).drawAt i = s.drawAt (2 + i) := afterRequests_drawAt s 2 i
  rw [keystream_stopped hk (by omega) h.afterRequests (by rwa [hdraw]), hdraw, afterRequests_two_afterBlocks,
    afterRequests_two_ctr, sessionRequest_two_add]
  rfl

/-- ENCRYPT's body with every request answered: ciphertext and tag (R164, R166). -/
theorem encryptBody_answered (aad : ByteString) {pt : ByteString} (h : s.AllAnswered (2 + blockCount pt)) :
    encryptBody aad pt s =
      .done (.str (s.sealed aad pt)) (s.afterRequests (2 + blockCount pt)) := by
  rw [encryptBody, hashKeyAndMask_answered hk hctr (h.mono (Nat.le_add_right 2 _)), bind_done,
    keystream_after_mask_answered hk h, bind_done]
  rfl

/-- ENCRYPT's body stops at its first request that is not answered (R166). -/
theorem encryptBody_stopped (aad : ByteString) {pt : ByteString} {m : Nat} (hm : m < 2 + blockCount pt)
    (h : s.AllAnswered m) (hd : s.drawAt m ≠ .answered) :
    encryptBody aad pt s =
      .stopped (s.drawAt m) (sessionRequest s.slot.sessionKey s.slot.j0 m) (s.afterRequests (m + 1)) := by
  rcases Nat.lt_or_ge m 2 with hfirst | hlater
  · rw [encryptBody, hashKeyAndMask_stopped hk hctr hfirst h hd, bind_stopped]
  · rw [encryptBody, hashKeyAndMask_answered hk hctr (h.mono hlater), bind_done,
      keystream_after_mask_stopped hk hlater hm h hd, bind_stopped]

end Bodies

end Sys2Proof.Machine
end

section
/-! PROOFS. DECRYPT's split and tag check (spec/42_gcm_engine.md R167, R172, spec/43_compare.md R200). -/

namespace Sys2Proof.Machine

/-- The accumulator of the comparator is 0 only when no position has differed (R200). -/
theorem orOfXors_eq_zero_iff {a b : ByteString} (h : a.length = b.length) (acc : Byte) :
    orOfXors acc a b = 0 ↔ acc = 0 ∧ a = b := by
  induction a generalizing b acc with
  | nil => simp [orOfXors, List.length_eq_zero_iff.1 h.symm]
  | cons x a ih =>
    cases b with
    | nil => cases h
    | cons y b =>
      have hbyte : acc ||| (x ^^^ y) = 0 ↔ acc = 0 ∧ x = y :=
        BitVec.or_eq_zero_iff.trans (and_congr_right' BitVec.xor_eq_zero_iff)
      rw [orOfXors, ih (Nat.succ.inj h), hbyte, List.cons.injEq, and_assoc]

/-- The comparator decides equality (R200). -/
theorem timingSafeEqual_iff (a b : ByteString) : timingSafeEqual a b = true ↔ a = b := by
  unfold timingSafeEqual
  split
  next hne => exact iff_of_false (by simp) fun h => hne (congrArg _ h)
  next heq => rw [decide_eq_true_iff, orOfXors_eq_zero_iff (not_not.1 heq)]; simp

theorem textPart_append {c trailer : ByteString} (h : trailer.length = 16) : textPart (c ++ trailer) = c := by
  simp [textPart, h]

theorem trailerPart_append {c trailer : ByteString} (h : trailer.length = 16) :
    trailerPart (c ++ trailer) = trailer := by
  simp [trailerPart, h]

section Body
variable {s : State} (hk : s.slot.sessionKey.length ∈ keyLengths) (hctr : s.slot.ctr = s.slot.j0) (aad : ByteString)
  {x : ByteString} (hx : 16 ≤ x.length)
include hk hctr hx

/-- DECRYPT's body once the two first requests are answered: the text is opened only if the tag matches (R167). -/
theorem decryptBody_after_mask (h : s.AllAnswered 2) :
    decryptBody aad x s =
      if s.TagMatches aad x then
        (keystream s.slot.sessionKey (textPart x) (s.afterRequests 2)).bind fun p u => .done (.str p) u
      else .raised .authenticationFailure (s.afterRequests 2) := by
  rw [decryptBody, if_neg (Nat.not_lt.2 hx), hashKeyAndMask_answered hk hctr h, bind_done, openText]
  exact if_congr (timingSafeEqual_iff _ _) rfl rfl

/-- DECRYPT's body with a matching tag and every request answered (R167). -/
theorem decryptBody_opened (htag : s.TagMatches aad x) (h : s.AllAnswered (2 + blockCount (textPart x))) :
    decryptBody aad x s =
      .done (.str (counterMode (s.encipher s.slot.sessionKey) s.slot.j0 (textPart x)))
        (s.afterRequests (2 + blockCount (textPart x))) := by
  rw [decryptBody_after_mask hk hctr aad hx (h.mono (Nat.le_add_right 2 _)), if_pos htag,
    keystream_after_mask_answered hk h, bind_done]

/-- DECRYPT's body with another tag makes no keystream request (R167, R175). -/
theorem decryptBody_mismatch (htag : ¬ s.TagMatches aad x) (h : s.AllAnswered 2) :
    decryptBody aad x s = .raised .authenticationFailure (s.afterRequests 2) := by
  rw [decryptBody_after_mask hk hctr aad hx h, if_neg htag]

/-- DECRYPT's body stops at its first request that is not answered (R167). -/
theorem decryptBody_stopped {m : Nat} (hm : m < 2 ∨ (m < 2 + blockCount (textPart x) ∧ s.TagMatches aad x))
    (h : s.AllAnswered m) (hd : s.drawAt m ≠ .answered) :
    decryptBody aad x s =
      .stopped (s.drawAt m) (sessionRequest s.slot.sessionKey s.slot.j0 m) (s.afterRequests (m + 1)) := by
  rcases Nat.lt_or_ge m 2 with hfirst | hlater
  · rw [decryptBody, if_neg (Nat.not_lt.2 hx), hashKeyAndMask_stopped hk hctr hfirst h hd, bind_stopped]
  · obtain ⟨hmd, htag⟩ := hm.resolve_left (Nat.not_lt.2 hlater)
    rw [decryptBody_after_mask hk hctr aad hx (h.mono hlater), if_pos htag,
      keystream_after_mask_stopped hk hlater hmd h hd, bind_stopped]

end Body

end Sys2Proof.Machine
end

section
/-! PROOFS. The four session commands (spec/42_gcm_engine.md R165 to R168): frames, results, errors and examples, and the
wait for a cipher agent that does not answer (R160, R214, R249). -/

namespace Sys2Proof

theorem operandBytes_str_str (a b : ByteString) :
    operandBytes [.str a, .str b] = beBytes 8 a.length ++ a ++ (beBytes 8 b.length ++ b) := by
  simp [Operand.bytes]

end Sys2Proof

namespace Sys2Proof.Machine

/-! What ENCRYPT and DECRYPT begin with. -/

theorem refusesUse_of_invalid {c : Slot} (h : c.valid = false) : c.refusesUse = some .noSession := by
  rw [Slot.refusesUse, if_pos h]

theorem State.Ready.refusesUse_eq_none {s : State} (hs : s.Ready) : s.slot.refusesUse = none :=
  (refusesUse_eq_none_iff _).2 ((sessionState_eq_ready_iff _).2 ⟨hs.valid, hs.unused⟩)

/-- A session that is refused: the error's response and nothing else (R166, R167, R213). -/
theorem exec_use_of_refused {i : Instr} {a b : ByteString} {s : State} {e : CommandError}
    (hi : i = .encrypt a b ∨ i = .decrypt a b) (hr : s.slot.refusesUse = some e) :
    exec i s = .next (s.respond (errorResponse e)) := by
  rcases hi with rfl | rfl <;> simp only [exec, execEncrypt, execDecrypt, hr] <;> rfl

theorem exec_encrypt_of_accepted {s : State} (hr : s.slot.refusesUse = none) (aad pt : ByteString) :
    exec (.encrypt aad pt) s = (encryptBody aad pt s.spend).finish := by
  simp only [exec, execEncrypt, hr]

theorem exec_decrypt_of_accepted {s : State} (hr : s.slot.refusesUse = none) (aad x : ByteString) :
    exec (.decrypt aad x) s = (decryptBody aad x s.spend).finish := by
  simp only [exec, execDecrypt, hr]

/-! ENCRYPT and DECRYPT on a READY session. -/

section Ready
variable {s : State} (hs : s.Ready) (aad : ByteString)
include hs

theorem exec_encrypt_answered {pt : ByteString} (h : s.AllAnswered (2 + blockCount pt)) :
    exec (.encrypt aad pt) s =
      .next ((s.spend.afterRequests (2 + blockCount pt)).respond (okResponse (.str (s.sealed aad pt)))) := by
  rw [exec_encrypt_of_accepted hs.refusesUse_eq_none,
    encryptBody_answered (s := s.spend) hs.sessionKey_legal hs.ctr aad h]
  rfl

theorem exec_encrypt_stopped {pt : ByteString} {m : Nat} (hm : m < 2 + blockCount pt) (h : s.AllAnswered m)
    (hd : s.drawAt m ≠ .answered) :
    exec (.encrypt aad pt) s = Call.finish
      (.stopped (s.drawAt m) (sessionRequest s.slot.sessionKey s.slot.j0 m) (s.spend.afterRequests (m + 1))) := by
  rw [exec_encrypt_of_accepted hs.refusesUse_eq_none,
    encryptBody_stopped (s := s.spend) hs.sessionKey_legal hs.ctr aad hm h hd]
  rfl

variable {x : ByteString} (hx : 16 ≤ x.length)
include hx

theorem exec_decrypt_opened (htag : s.TagMatches aad x) (h : s.AllAnswered (2 + blockCount (textPart x))) :
    exec (.decrypt aad x) s = .next ((s.spend.afterRequests (2 + blockCount (textPart x))).respond
      (okResponse (.str (counterMode (s.encipher s.slot.sessionKey) s.slot.j0 (textPart x))))) := by
  rw [exec_decrypt_of_accepted hs.refusesUse_eq_none,
    decryptBody_opened (s := s.spend) hs.sessionKey_legal hs.ctr aad hx htag h]
  rfl

theorem exec_decrypt_mismatch (htag : ¬ s.TagMatches aad x) (h : s.AllAnswered 2) :
    exec (.decrypt aad x) s = .next ((s.spend.afterRequests 2).respond [0x06]) := by
  rw [exec_decrypt_of_accepted hs.refusesUse_eq_none,
    decryptBody_mismatch (s := s.spend) hs.sessionKey_legal hs.ctr aad hx htag h]
  rfl

theorem exec_decrypt_stopped {m : Nat} (hm : m < 2 ∨ (m < 2 + blockCount (textPart x) ∧ s.TagMatches aad x))
    (h : s.AllAnswered m) (hd : s.drawAt m ≠ .answered) :
    exec (.decrypt aad x) s = Call.finish
      (.stopped (s.drawAt m) (sessionRequest s.slot.sessionKey s.slot.j0 m) (s.spend.afterRequests (m + 1))) := by
  rw [exec_decrypt_of_accepted hs.refusesUse_eq_none,
    decryptBody_stopped (s := s.spend) hs.sessionKey_legal hs.ctr aad hx hm h hd]
  rfl

end Ready

theorem exec_decrypt_short {s : State} (hr : s.slot.refusesUse = none) (aad : ByteString) {x : ByteString}
    (hx : x.length < 16) : exec (.decrypt aad x) s = .next (s.spend.respond [0x06]) := by
  rw [exec_decrypt_of_accepted hr, decryptBody, if_pos hx]; rfl

/-- The states a command that stops ends in: BackendError's response, or the wait. -/
theorem finish_stopped_failed (code : BitVec 32) (r : Request) (u : State) :
    (Call.stopped (.failed code) r u).finish = .next (u.respond (0x05 :: beBytes 4 code.toNat)) := rfl

theorem finish_stopped_silent (r : Request) (u : State) :
    (Call.stopped .silent r u).finish = .next (u.await r.key r.block) := rfl

/-! The example of R166 and R167: the zero key, J0 = 1, tag size 16, one block of zeros. -/

theorem counterMode_one_block (e : Wide → Wide) (c : Wide) {d : ByteString} (h : d.length = 16) :
    counterMode e c d = xorBytes d (be16 (e (inc c))) := by
  simpa using counterMode_block_append e c h []

section Example
variable {s : State} (hkey : s.slot.sessionKey = zeros 16) (hj0 : s.slot.j0 = 1)
include hkey hj0

theorem example_ciphertext (h2 : s.cipher (zeros 16) (be16 2) = 0x0388dace60b6a392f328c2b971b2fe78) :
    counterMode (s.encipher s.slot.sessionKey) s.slot.j0 (zeros 16) = be16 0x0388dace60b6a392f328c2b971b2fe78 := by
  have hmask : s.encipher s.slot.sessionKey (inc s.slot.j0) = 0x0388dace60b6a392f328c2b971b2fe78 := by
    rw [hkey, hj0]; exact h2
  rw [counterMode_one_block _ _ (zeros_length 16), hmask]
  decide

theorem example_tag (htag : s.slot.tagsize = 16)
    (h0 : s.cipher (zeros 16) (zeros 16) = 0x66e94bd4ef8a2c3b884cfa59ca342b2e)
    (h1 : s.cipher (zeros 16) (be16 1) = 0x58e2fccefa7e3061367f1d57a4e7455a) :
    s.tagFor [] (be16 0x0388dace60b6a392f328c2b971b2fe78) = be16 0xab6e47d42cec13bdf53a67b21257bddf := by
  obtain ⟨-, -, -, -, hsample⟩ := ghashCommand
  have hresponses := hsample s
  rw [exec_ghash] at hresponses
  have hhash : ghash 0 0x66e94bd4ef8a2c3b884cfa59ca342b2e [] (be16 0x0388dace60b6a392f328c2b971b2fe78) =
      0xf38cbb1ad69223dcc3457ae5b6b0f885 := be16_injective (by simpa using hresponses)
  have hmask : s.encipher (zeros 16) 1 = 0x58e2fccefa7e3061367f1d57a4e7455a := h1
  rw [State.tagFor, State.hashKey, hkey, hj0, h0, hhash, hmask, htag]
  decide

end Example

/-- Settles O38: the requests made are the first of the table's, in `afterRequests`; the example is one block. -/
theorem encryptFollowsItsRule : Obligations.EncryptFollowsItsRule := by
  refine ⟨fun aad pt => ?frame, fun f => decode_eq_malformed_of_no_encoding (by decide),
    fun aad pt s hv => ?noSession, fun aad pt s hv hu => ?alreadyUsed, fun aad pt s hs h => ?answered,
    fun aad pt s m code hs hm h hd => ?failed,
    fun s hs h htag hkey hj0 h0 h1 h2 => ?sample⟩
  case frame => exact congrArg (0x41 :: ·) (operandBytes_str_str aad pt)
  case noSession => exact exec_use_of_refused (.inl rfl) (refusesUse_of_invalid hv)
  case alreadyUsed =>
    exact exec_use_of_refused (.inl rfl) (refusesUse_of_spent ((sessionState_eq_spent_iff _).2 ⟨hv, hu⟩))
  case answered =>
    refine ⟨_, _, rfl, rfl, counterMode_length _ _ pt, fun htag => ?_, ?_⟩
    · simpa [State.tagFor] using tagSizes_le htag
    · rw [exec_encrypt_answered hs aad h, afterRequests_two_add]
      rfl
  case failed =>
    rw [exec_encrypt_stopped hs aad hm h (by simp [hd]), hd, finish_stopped_failed,
      take_sessionRequests _ _ (by omega)]
    rfl
  case sample =>
    refine ⟨_, exec_encrypt_answered hs [] h, ?_⟩
    rw [State.sealed, example_ciphertext hkey hj0 h2, example_tag hkey hj0 htag h0 h1]
    rfl

/-- Settles O39: as O38, with the tag check after the second request. -/
theorem decryptFollowsItsRule : Obligations.DecryptFollowsItsRule := by
  refine ⟨fun aad x => ?frame, fun f => decode_eq_malformed_of_no_encoding (by decide), fun aad x s hv => ?noSession,
    fun aad x s hv hu => ?alreadyUsed, fun aad x s hv hu hx => ?short, fun aad x s hs hx htag h => ?opened,
    fun aad x s hs hx htag h => ?mismatch, fun aad x s m code hs hx hm h hd => ?failed,
    fun s hs h htag hkey hj0 h0 h1 h2 => ?sample⟩
  case frame => exact congrArg (0x42 :: ·) (operandBytes_str_str aad x)
  case noSession => exact exec_use_of_refused (.inr rfl) (refusesUse_of_invalid hv)
  case alreadyUsed =>
    exact exec_use_of_refused (.inr rfl) (refusesUse_of_spent ((sessionState_eq_spent_iff _).2 ⟨hv, hu⟩))
  case short =>
    exact exec_decrypt_short ((refusesUse_eq_none_iff _).2 ((sessionState_eq_ready_iff _).2 ⟨hv, hu⟩)) aad hx
  case opened =>
    refine ⟨_, rfl, by simp [textPart], ?_⟩
    rw [exec_decrypt_opened hs aad hx htag h, afterRequests_two_add]
    rfl
  case mismatch =>
    have hslot : { s.slot with used := true, ctr := counterBlock s.slot.j0 0 } = { s.slot with used := true } := by
      rw [counterBlock_zero, ← hs.ctr]
    rw [exec_decrypt_mismatch hs aad hx htag h, afterRequests_two_add s.spend 0, ← hslot]
    rfl
  case failed =>
    rw [exec_decrypt_stopped hs aad hx hm h (by simp [hd]), hd, finish_stopped_failed,
      take_sessionRequests _ _ (by omega)]
    rfl
  case sample =>
    have htext := textPart_append (c := be16 0x0388dace60b6a392f328c2b971b2fe78)
      (be16_length 0xab6e47d42cec13bdf53a67b21257bddf)
    have htrailer := trailerPart_append (c := be16 0x0388dace60b6a392f328c2b971b2fe78)
      (be16_length 0xab6e47d42cec13bdf53a67b21257bddf)
    have hmatch : s.TagMatches []
        (be16 0x0388dace60b6a392f328c2b971b2fe78 ++ be16 0xab6e47d42cec13bdf53a67b21257bddf) := by
      rw [State.TagMatches, htext, htrailer, example_tag hkey hj0 htag h0 h1, htag]
      decide
    refine ⟨_, exec_decrypt_opened hs [] (by decide) hmatch (by rwa [htext]), ?_⟩
    rw [htext, ← example_ciphertext hkey hj0 h2, counterMode_counterMode]
    rfl

/-! SESSION_NEW. -/

/-- SESSION_NEW whose one request is not answered (R165). -/
theorem exec_sessionNew_stopped {key : ByteString} {tagSize : Byte} {s : State} (nonce : ByteString)
    (htag : tagSize.toNat ∈ tagSizes) (hkey : key.length ∈ keyLengths) (hd : s.drawAt 0 ≠ .answered) :
    exec (.sessionNew key nonce tagSize) s =
      Call.finish (.stopped (s.drawAt 0) ⟨key, zeros 16⟩ (s.scrub.issue key (zeros 16))) := by
  have hcall := callE_unanswered (s := s.scrub) (zeros_length 16) hkey hd
  simp only [exec, execSessionNew, sessionNewBody, if_neg (not_not.2 htag), if_neg (not_not.2 hkey), hcall,
    bind_stopped]
  rfl

theorem exec_sessionNew_tagSize {tagSize : Byte} (key nonce : ByteString) (s : State)
    (htag : tagSize.toNat ∉ tagSizes) :
    exec (.sessionNew key nonce tagSize) s = .next (s.scrub.respond [0x02]) := by
  simp only [exec, execSessionNew, sessionNewBody, if_pos htag]; rfl

theorem exec_sessionNew_keySize {key : ByteString} {tagSize : Byte} (nonce : ByteString) (s : State)
    (htag : tagSize.toNat ∈ tagSizes) (hkey : key.length ∉ keyLengths) :
    exec (.sessionNew key nonce tagSize) s = .next (s.scrub.respond [0x01]) := by
  simp only [exec, execSessionNew, sessionNewBody, if_neg (not_not.2 htag), if_pos hkey]; rfl

theorem toNat_keylen {key : ByteString} (h : key.length ∈ keyLengths) :
    (BitVec.ofNat 6 key.length).toNat = key.length := by
  have := keyLengths_le h
  rw [BitVec.toNat_ofNat]; omega

theorem toNat_tagsize {tagSize : Byte} (h : tagSize.toNat ∈ tagSizes) :
    (tagSize.setWidth 5).toNat = tagSize.toNat := by
  have := tagSizes_le h
  rw [BitVec.toNat_setWidth]; omega

/-- The tag sizes refused (R165). -/
theorem not_mem_tagSizes_iff (n : Nat) :
    n ∉ tagSizes ↔ n ≤ 3 ∨ (5 ≤ n ∧ n ≤ 7) ∨ (9 ≤ n ∧ n ≤ 11) ∨ 17 ≤ n := by
  simp only [tagSizes, List.mem_cons, List.not_mem_nil, or_false]
  omega

/-- Settles O37: the session opened, read register by register, and each way SESSION_NEW stops. -/
theorem sessionNewFollowsItsRule : Obligations.SessionNewFollowsItsRule := by
  refine ⟨fun key nonce tagSize => ?frame, fun f => decode_eq_malformed_of_no_encoding (by decide),
    fun key nonce tagSize s htag hkey hd => ?opened,
    fun key nonce tagSize s => exec_sessionNew_tagSize key nonce s,
    fun key nonce tagSize s => exec_sessionNew_keySize nonce s,
    fun key nonce tagSize s code htag hkey hd => ?failed, fun v => not_mem_tagSizes_iff v.toNat,
    fun s hd hcipher => ?sample⟩
  case frame => simp [encode, opcodeOf, operandsOf, Operand.bytes]
  case opened =>
    exact ⟨_, exec_sessionNew_answered htag hkey hd, rfl, rfl, toNat_keylen hkey,
      beBytes_keyRegister key (keyLengths_le hkey), toNat_tagsize htag, rfl, rfl, rfl, rfl, rfl, rfl, rfl, rfl, rfl⟩
  case failed =>
    rw [exec_sessionNew_stopped nonce htag hkey (by simp [hd]), hd]
    rfl
  case sample =>
    have hj0 (h : Wide) : deriveJ0 h (zeros 12) = 1 := by
      rw [deriveJ0, if_pos (zeros_length 12)]; decide
    exact ⟨_, exec_sessionNew_answered (by decide) (by decide) hd, rfl, hcipher,
      hj0 (s.hashKey (zeros 16)), hj0 (s.hashKey (zeros 16))⟩

/-! SESSION_CLEAR. -/

theorem exec_sessionClear (s : State) : exec .sessionClear s = .next (s.scrub.respond [0x00]) := rfl

/-- Settles O40: the scrub leaves the EMPTY slot, whatever it finds. -/
theorem sessionClearFollowsItsRule : Obligations.SessionClearFollowsItsRule := by
  refine ⟨rfl, fun f hf => ?trailing, exec_sessionClear, fun s t u ht hu => ?twice⟩
  case trailing =>
    have htrailing := decode_encode_append (i := .sessionClear) trivial f
    rwa [if_neg hf] at htrailing
  case twice =>
    cases ht; cases hu
    exact ⟨rfl, rfl, rfl⟩

/-! The wait for an answer. -/

/-- Settles O41: the state each command stops in, with the draw silent. -/
theorem silentAgentLeavesTheCoreWaiting : Obligations.SilentAgentLeavesTheCoreWaiting := by
  refine ⟨fun key nonce tagSize s htag hkey hd => ?sessionNew, fun aad pt s m hs hm h hd => ?encrypt,
    fun aad x s m hs hx hm h hd => ?decrypt⟩
  case sessionNew =>
    rw [exec_sessionNew_stopped nonce htag hkey (by simp [hd]), hd]
    rfl
  case encrypt =>
    refine ⟨_, getElem?_sessionRequests _ _ (by omega), ?_⟩
    rw [exec_encrypt_stopped hs aad hm h (by simp [hd]), hd, finish_stopped_silent,
      take_sessionRequests _ _ (by omega)]
    rfl
  case decrypt =>
    refine ⟨_, getElem?_sessionRequests _ _ (by omega), ?_⟩
    rw [exec_decrypt_stopped hs aad hx hm h (by simp [hd]), hd, finish_stopped_silent,
      take_sessionRequests _ _ (by omega)]
    rfl

end Sys2Proof.Machine
end

section
/-! PROOFS. The table of requests of spec/42_gcm_engine.md R169: every command makes the requests it gives, up to the
first that is not answered; they are legal (R161), and no counter block is among them twice (R170). -/

namespace Sys2Proof.Machine

/-! The table. -/

theorem scheduled_of_datapath {i : Instr} (h : i.Datapath = true) (s : State) : scheduled i s = [] := by
  cases i with
  | sessionNew | encrypt | decrypt | sessionClear => cases h
  | _ => rfl

theorem scheduled_sessionNew_legal {key : ByteString} {tagSize : Byte} (nonce : ByteString) (s : State)
    (htag : tagSize.toNat ∈ tagSizes) (hkey : key.length ∈ keyLengths) :
    scheduled (.sessionNew key nonce tagSize) s = [{ key := key, block := zeros 16 }] := if_pos ⟨htag, hkey⟩

theorem scheduled_sessionNew_illegal {key : ByteString} {tagSize : Byte} (nonce : ByteString) (s : State)
    (h : ¬ (tagSize.toNat ∈ tagSizes ∧ key.length ∈ keyLengths)) :
    scheduled (.sessionNew key nonce tagSize) s = [] := if_neg h

/-- A session that ENCRYPT and DECRYPT refuse has no row. -/
theorem scheduled_use_refused {i : Instr} {a b : ByteString} {s : State} (hi : i = .encrypt a b ∨ i = .decrypt a b)
    (h : ¬ (s.slot.valid = true ∧ s.slot.used = false)) : scheduled i s = [] := by
  rcases hi with rfl | rfl
  · exact if_neg h
  · exact if_neg fun ⟨hv, hu, _⟩ => h ⟨hv, hu⟩

section Ready
variable {s : State} (hs : s.Ready) (aad : ByteString)
include hs

theorem scheduled_encrypt (pt : ByteString) :
    scheduled (.encrypt aad pt) s = sessionRequests s.slot.sessionKey s.slot.j0 (blockCount pt) :=
  if_pos ⟨hs.valid, hs.unused⟩

omit hs in
theorem scheduled_decrypt_short {x : ByteString} (hx : x.length < 16) : scheduled (.decrypt aad x) s = [] :=
  if_neg fun ⟨_, _, h⟩ => Nat.not_lt.2 h hx

theorem scheduled_decrypt_opened {x : ByteString} (hx : 16 ≤ x.length) (htag : s.TagMatches aad x) :
    scheduled (.decrypt aad x) s = sessionRequests s.slot.sessionKey s.slot.j0 (blockCount (textPart x)) := by
  rw [scheduled, if_pos ⟨hs.valid, hs.unused, hx⟩, if_pos htag]

theorem scheduled_decrypt_mismatch {x : ByteString} (hx : 16 ≤ x.length) (htag : ¬ s.TagMatches aad x) :
    scheduled (.decrypt aad x) s = sessionRequests s.slot.sessionKey s.slot.j0 0 := by
  rw [scheduled, if_pos ⟨hs.valid, hs.unused, hx⟩, if_neg htag]

end Ready

/-! Following the table. -/

/-- t is what a command whose row of the table is rs, begun in s, may end in (R169). -/
def State.Follows (s : State) (rs : List Request) (t : State) : Prop :=
  ∃ n, n ≤ rs.length ∧ t.requests = s.requests ++ rs.take n ∧
    (∀ r, t.responses = s.responses ++ [r] → (r.head? = some 0x00 ∨ r = [0x06]) → n = rs.length) ∧
    (∀ m, m < n - 1 → s.drawAt m = .answered) ∧
    (∀ code : BitVec 32, t.responses = s.responses ++ [0x05 :: beBytes 4 code.toNat] →
      0 < n ∧ s.drawAt (n - 1) = .failed code)

/-- The code of a BackendError response is read back from its 4 bytes (R80). -/
theorem beBytes_code_injective {a b : BitVec 32} (h : beBytes 4 a.toNat = beBytes 4 b.toNat) : a = b := by
  have hval := congrArg beVal h
  rw [beVal_beBytes, beVal_beBytes] at hval
  bv_omega

section Follows
variable {s t : State} {rs : List Request}

/-- All requests made and answered, and a response that is not BackendError's. -/
theorem State.Follows.completed (h : s.AllAnswered rs.length) (hreq : t.requests = s.requests ++ rs) {r : ByteString}
    (hresp : t.responses = s.responses ++ [r]) (hr : r.head? ≠ some 0x05) : s.Follows rs t := by
  refine ⟨rs.length, le_rfl, by rwa [List.take_length], fun _ _ _ => rfl,
    fun m hm => h m (by omega), fun code hcode => ?_⟩
  have : r = 0x05 :: beBytes 4 code.toNat := by simpa using hresp.symm.trans hcode
  exact absurd (congrArg List.head? this) hr

theorem okResponse_head_ne_05 (p : Payload) : (okResponse p).head? ≠ some 0x05 :=
  (Option.some_injective _).ne (by decide)

/-- No request, where the table has no row. -/
theorem State.Follows.of_no_row {r : ByteString} (hreq : t.requests = s.requests)
    (hresp : t.responses = s.responses ++ [r])
    (hr : r.head? ≠ some 0x05) : s.Follows [] t :=
  .completed (fun _ hi => absurd hi (Nat.not_lt_zero _)) (by rw [hreq, List.append_nil]) hresp hr

/-- The requests up to the first that is not answered. -/
theorem State.Follows.stopped {m : Nat} {r : Request} {u : State} (hm : m < rs.length) (h : s.AllAnswered m)
    (hd : s.drawAt m ≠ .answered) (hreq : u.requests = s.requests ++ rs.take (m + 1))
    (hresp : u.responses = s.responses)
    (hend : (Call.stopped (s.drawAt m) r u).finish = .next t) : s.Follows rs t := by
  cases hdraw : s.drawAt m with
  | answered => exact absurd hdraw hd
  | failed code =>
    rw [hdraw, finish_stopped_failed] at hend
    cases hend
    have hlast {r : ByteString} (hr : (u.respond (0x05 :: beBytes 4 code.toNat)).responses = s.responses ++ [r]) :
        0x05 :: beBytes 4 code.toNat = r := by simpa [hresp] using hr
    refine ⟨m + 1, hm, hreq, fun r hr hok => ?_, h, fun code' hcode => ⟨Nat.succ_pos m, ?_⟩⟩
    · rw [← hlast hr] at hok
      simp at hok
    · rw [← beBytes_code_injective (List.cons.inj (hlast hcode)).2]
      exact hdraw
  | silent =>
    rw [hdraw, finish_stopped_silent] at hend
    cases hend
    have hnone {x : ByteString} : (u.await r.key r.block).responses ≠ s.responses ++ [x] := by simp [hresp]
    exact ⟨m + 1, hm, hreq, fun x hx => absurd hx hnone, h, fun code hcode => absurd hcode hnone⟩

/-- ENCRYPT or DECRYPT that made its first two requests and those of n blocks of keystream. -/
theorem State.Follows.session_completed {n : Nat} (h : s.AllAnswered (2 + n)) {r : ByteString}
    (hr : r.head? ≠ some 0x05) :
    s.Follows (sessionRequests s.slot.sessionKey s.slot.j0 n) ((s.spend.afterRequests (2 + n)).respond r) := by
  rw [afterRequests_two_add]
  refine .completed ?_ rfl rfl hr
  rwa [sessionRequests_length, Nat.add_comm]

/-- ENCRYPT or DECRYPT that stopped at request m, with n blocks of keystream to make. -/
theorem State.Follows.session_stopped {m n : Nat} {r : Request} (hm : m < 2 + n) (h : s.AllAnswered m)
    (hd : s.drawAt m ≠ .answered)
    (hend : (Call.stopped (s.drawAt m) r (s.spend.afterRequests (m + 1))).finish = .next t) :
    s.Follows (sessionRequests s.slot.sessionKey s.slot.j0 n) t := by
  have hreq : (s.spend.afterRequests (m + 1)).requests =
      s.requests ++ (sessionRequests s.slot.sessionKey s.slot.j0 n).take (m + 1) := by
    rw [take_sessionRequests _ _ (by omega)]; rfl
  refine .stopped ?_ h hd hreq rfl hend
  rwa [sessionRequests_length, Nat.add_comm]

end Follows

/-! Each command follows its row. -/

theorem sessionRequests_mem_legal {k : ByteString} (hk : k.length ∈ keyLengths) (j0 : Wide) (n : Nat) :
    ∀ r ∈ sessionRequests k j0 n, r.Legal := by
  intro r hr
  rw [sessionRequests_eq_map] at hr
  obtain ⟨i, -, rfl⟩ := List.mem_map.1 hr
  cases i with
  | zero => exact ⟨hk, zeros_length 16⟩
  | succ i => exact ⟨hk, be16_length _⟩

/-- A session in use that meets the invariants is one ENCRYPT and DECRYPT accept (R34, R35). -/
theorem State.SessionInv.ready {s : State} (hs : s.SessionInv) (hv : s.slot.valid = true) (hu : s.slot.used = false) :
    s.Ready := ⟨hv, hu, hs.keylen hv, hs.ctr hv hu⟩

/-- A session that is not READY is refused with NoSession or SessionAlreadyUsed (R166, R167). -/
theorem refusesUse_of_not_ready {c : Slot} (h : ¬ (c.valid = true ∧ c.used = false)) :
    ∃ e, c.refusesUse = some e ∧ (e = .noSession ∨ e = .sessionAlreadyUsed) := by
  cases hv : c.valid with
  | false => exact ⟨_, refusesUse_of_invalid hv, .inl rfl⟩
  | true =>
    have hu : c.used = true := by simpa [hv] using h
    exact ⟨_, refusesUse_of_spent ((sessionState_eq_spent_iff c).2 ⟨hv, hu⟩), .inr rfl⟩

theorem exec_use_refused_follows {i : Instr} {a b : ByteString} {s t : State}
    (hi : i = .encrypt a b ∨ i = .decrypt a b) (hready : ¬ (s.slot.valid = true ∧ s.slot.used = false))
    (h : exec i s = .next t) :
    s.Follows (scheduled i s) t := by
  obtain ⟨e, hr, he⟩ := refusesUse_of_not_ready hready
  cases exec_use_refused hi hr h
  rw [scheduled_use_refused hi hready]
  exact .of_no_row rfl rfl (by rcases he with rfl | rfl <;> decide)

section Ready
variable {s t : State} (hs : s.Ready)
include hs

theorem exec_encrypt_follows {aad pt : ByteString} (h : exec (.encrypt aad pt) s = .next t) :
    s.Follows (scheduled (.encrypt aad pt) s) t := by
  rw [scheduled_encrypt hs]
  rcases allAnswered_or_first_unanswered s (2 + blockCount pt) with hall | ⟨m, hm, hbefore, hd⟩
  · rw [exec_encrypt_answered hs aad hall] at h
    cases h
    exact .session_completed hall (okResponse_head_ne_05 _)
  · rw [exec_encrypt_stopped hs aad hm hbefore hd] at h
    exact .session_stopped hm hbefore hd h

theorem exec_decrypt_follows {aad x : ByteString} (h : exec (.decrypt aad x) s = .next t) :
    s.Follows (scheduled (.decrypt aad x) s) t := by
  rcases Nat.lt_or_ge x.length 16 with hx | hx
  · rw [exec_decrypt_short hs.refusesUse_eq_none aad hx] at h
    cases h
    rw [scheduled_decrypt_short aad hx]
    exact .of_no_row rfl rfl (by decide)
  by_cases htag : s.TagMatches aad x
  · rw [scheduled_decrypt_opened hs aad hx htag]
    rcases allAnswered_or_first_unanswered s (2 + blockCount (textPart x)) with hall | ⟨m, hm, hbefore, hd⟩
    · rw [exec_decrypt_opened hs aad hx htag hall] at h
      cases h
      exact .session_completed hall (okResponse_head_ne_05 _)
    · rw [exec_decrypt_stopped hs aad hx (.inr ⟨hm, htag⟩) hbefore hd] at h
      exact .session_stopped hm hbefore hd h
  · rw [scheduled_decrypt_mismatch hs aad hx htag]
    rcases allAnswered_or_first_unanswered s 2 with hall | ⟨m, hm, hbefore, hd⟩
    · rw [exec_decrypt_mismatch hs aad hx htag hall] at h
      cases h
      exact .session_completed hall (by decide)
    · rw [exec_decrypt_stopped hs aad hx (.inl hm) hbefore hd] at h
      exact .session_stopped hm hbefore hd h

theorem exec_use_follows {i : Instr} {a b : ByteString} (hi : i = .encrypt a b ∨ i = .decrypt a b)
    (h : exec i s = .next t) : s.Follows (scheduled i s) t := by
  rcases hi with rfl | rfl
  · exact exec_encrypt_follows hs h
  · exact exec_decrypt_follows hs h

end Ready

theorem exec_sessionNew_follows {key nonce : ByteString} {tagSize : Byte} {s t : State}
    (h : exec (.sessionNew key nonce tagSize) s = .next t) :
    s.Follows (scheduled (.sessionNew key nonce tagSize) s) t := by
  by_cases htag : tagSize.toNat ∈ tagSizes
  swap
  · rw [exec_sessionNew_tagSize key nonce s htag] at h
    cases h
    rw [scheduled_sessionNew_illegal nonce s fun hboth => htag hboth.1]
    exact .of_no_row rfl rfl (by decide)
  by_cases hkey : key.length ∈ keyLengths
  swap
  · rw [exec_sessionNew_keySize nonce s htag hkey] at h
    cases h
    rw [scheduled_sessionNew_illegal nonce s fun hboth => hkey hboth.2]
    exact .of_no_row rfl rfl (by decide)
  rw [scheduled_sessionNew_legal nonce s htag hkey]
  by_cases hd : s.drawAt 0 = .answered
  · rw [exec_sessionNew_answered htag hkey hd] at h
    cases h
    have hall : s.AllAnswered 1 := fun i hi => by rwa [Nat.lt_one_iff.1 hi]
    exact .completed hall rfl rfl (by decide)
  · rw [exec_sessionNew_stopped nonce htag hkey hd] at h
    have hbefore : s.AllAnswered 0 := fun i hi => absurd hi (Nat.not_lt_zero i)
    exact .stopped (u := s.scrub.issue key (zeros 16)) Nat.one_pos hbefore hd rfl rfl h

/-- Settles O42: each command follows its own row. -/
theorem requestsFollowTheTable : Obligations.RequestsFollowTheTable := by
  intro i s t hs h
  change s.Follows (scheduled i s) t
  have inUse {a b : ByteString} (hi : i = .encrypt a b ∨ i = .decrypt a b) : s.Follows (scheduled i s) t := by
    by_cases hready : s.slot.valid = true ∧ s.slot.used = false
    · exact exec_use_follows (hs.ready hready.1 hready.2) hi h
    · exact exec_use_refused_follows hi hready h
  by_cases hdatapath : i.Datapath = true
  · obtain ⟨p, hp⟩ := exec_of_datapath hdatapath
    cases (hp s).symm.trans h
    rw [scheduled_of_datapath hdatapath]
    exact .of_no_row rfl rfl (okResponse_head_ne_05 p)
  cases i with
  | sessionNew key nonce tagSize => exact exec_sessionNew_follows h
  | encrypt aad pt => exact inUse (.inl rfl)
  | decrypt aad x => exact inUse (.inr rfl)
  | sessionClear =>
    rw [exec_sessionClear] at h
    cases h
    exact .of_no_row rfl rfl (by decide)
  | _ => exact absurd rfl hdatapath

/-! Every request is legal. -/

/-- The rows of ENCRYPT and DECRYPT are part of one sequence, with a counter block for each block of their input. -/
theorem scheduled_use_sublist {i : Instr} {a b : ByteString} (hi : i = .encrypt a b ∨ i = .decrypt a b) (s : State) :
    (scheduled i s).Sublist (sessionRequests s.slot.sessionKey s.slot.j0 (blockCount b)) := by
  have shorter {n : Nat} (hn : n ≤ blockCount b) : (sessionRequests s.slot.sessionKey s.slot.j0 n).Sublist
      (sessionRequests s.slot.sessionKey s.slot.j0 (blockCount b)) := by
    rw [sessionRequests_eq_map, sessionRequests_eq_map]
    exact (List.range_sublist.2 (Nat.add_le_add_right hn 2)).map _
  have htext : blockCount (textPart b) ≤ blockCount b := by
    simp only [blockCount, textPart, List.length_take]
    omega
  rcases hi with rfl | rfl <;> rw [scheduled]
  · split
    · exact shorter le_rfl
    · exact List.nil_sublist _
  · split
    · split
      · exact shorter htext
      · exact shorter (Nat.zero_le _)
    · exact List.nil_sublist _

/-- Every request of the table is legal (R161). -/
theorem scheduled_legal {i : Instr} {s : State} (hs : s.SessionInv) : ∀ r ∈ scheduled i s, r.Legal := by
  have inUse {a b : ByteString} (hi : i = .encrypt a b ∨ i = .decrypt a b) : ∀ r ∈ scheduled i s, r.Legal := by
    by_cases hready : s.slot.valid = true ∧ s.slot.used = false
    · intro r hr
      exact sessionRequests_mem_legal (hs.ready hready.1 hready.2).sessionKey_legal _ _ r
        ((scheduled_use_sublist hi s).subset hr)
    · rw [scheduled_use_refused hi hready]; simp
  by_cases hdatapath : i.Datapath = true
  · rw [scheduled_of_datapath hdatapath]; simp
  cases i with
  | sessionNew key nonce tagSize =>
    by_cases hlegal : tagSize.toNat ∈ tagSizes ∧ key.length ∈ keyLengths
    · rw [scheduled_sessionNew_legal nonce s hlegal.1 hlegal.2]
      exact List.forall_mem_singleton.2 ⟨hlegal.2, zeros_length 16⟩
    · rw [scheduled_sessionNew_illegal nonce s hlegal]; simp
  | encrypt aad pt => exact inUse (.inl rfl)
  | decrypt aad x => exact inUse (.inr rfl)
  | sessionClear => simp [scheduled]
  | _ => exact absurd rfl hdatapath

/-- A command begun by an idle core keeps the properties of the requests: those it adds are in the table, and a core
left waiting waits for the last of them. -/
theorem exec_keeps_requestsInv {i : Instr} {s t : State} (hs : s.SessionInv) (hreq : s.RequestsInv)
    (hidle : s.phase = .idle) (h : exec i s = .next t) : t.RequestsInv := by
  constructor
  case legal =>
    obtain ⟨n, -, hadded, -⟩ := requestsFollowTheTable i s t hs h
    rw [hadded]
    exact List.forall_mem_append.2 ⟨hreq.legal, fun r hr => scheduled_legal hs r (List.mem_of_mem_take hr)⟩
  case outstanding =>
    intro r hr
    obtain ⟨-, -, -, ⟨-, -, hphase⟩ | ⟨r', -, hphase, hlast⟩⟩ := oneResponseForEachCommand i s t h
    · rw [hphase, hidle] at hr
      cases hr
    · rw [hphase] at hr
      cases hr
      exact hlast

/-- Settles O46: only a command makes requests, and only a command leaves a core waiting that was not. -/
theorem stepKeepsRequestsLegal : Obligations.StepKeepsRequestsLegal := by
  intro s t hs hreq h
  rcases step_cases h with ⟨p, hp, rfl⟩ | ⟨-, rfl⟩ | ⟨hidle, e, -, rfl⟩ | ⟨hidle, f, i, -, -, hexec⟩
  · refine ⟨hreq.legal, fun r hr => ?_⟩
    rcases hp with rfl | ⟨-, rfl⟩
    · exact hreq.outstanding r hr
    · cases hr
  · exact ⟨hreq.legal, fun r hr => Phase.noConfusion hr⟩
  · exact ⟨hreq.legal, fun r hr => Phase.noConfusion (hidle.symm.trans hr)⟩
  · have htaken : State.SessionInv { s with inputs := s.inputs.drop 1 } := hs.congr rfl rfl
    exact exec_keeps_requestsInv htaken ⟨hreq.legal, hreq.outstanding⟩ hidle hexec

/-! No counter block twice. -/

theorem counterBlock_injective {c : Wide} {i j : Nat} (hi : i < 2 ^ 128) (hj : j < 2 ^ 128)
    (h : counterBlock c i = counterBlock c j) : i = j := by
  have hofNat := congrArg BitVec.toNat ((BitVec.add_right_inj c).1 h)
  rwa [BitVec.toNat_ofNat, BitVec.toNat_ofNat, Nat.mod_eq_of_lt hi, Nat.mod_eq_of_lt hj] at hofNat

/-- The requests after the first are for different counter blocks, as long as there are at most 2^128 of them (R170). -/
theorem sessionRequests_tail_nodup (k : ByteString) (j0 : Wide) {n : Nat} (hn : n < 2 ^ 128) :
    (sessionRequests k j0 n).tail.Nodup := by
  refine List.Nodup.map_on (fun i hi j hj hij => ?_) List.nodup_range
  have hblock : counterBlock j0 i = counterBlock j0 j := be16_injective (congrArg Request.block hij)
  exact counterBlock_injective (by have := List.mem_range.1 hi; omega) (by have := List.mem_range.1 hj; omega) hblock

theorem blockCount_lt {d : ByteString} (h : StrFits d) : blockCount d < 2 ^ 128 := by
  have hmax := h.trans maxLen_bounds.2
  unfold blockCount
  omega

/-- Settles O51: the requests after the first are part of the tail of one sequence. -/
theorem counterBlocksNeverRepeat : Obligations.CounterBlocksNeverRepeat := by
  intro i a b s t hi hb hs h
  obtain ⟨n, -, hadded, -⟩ := exec_use_follows hs hi h
  have hdrop : t.requests.drop (s.requests.length + 1) = ((scheduled i s).take n).tail := by
    rw [hadded, List.drop_length_add_append, List.drop_one]
  have hpart := ((List.take_sublist n _).trans (scheduled_use_sublist hi s)).tail
  rw [hdrop]
  exact hpart.nodup (sessionRequests_tail_nodup _ _ (blockCount_lt hb))

end Sys2Proof.Machine
end

section
/-! PROOFS. Runs of a waiting core and of a SPENT session (spec/42_gcm_engine.md R160 part 3, R170,
spec/70_reset_and_hazards.md R244, R249). -/

namespace Sys2Proof.Machine

/-- A run of n + 1 steps is one step and a run of n. -/
theorem run_succ_eq_next_iff (M : Host.Core) (n : Nat) (s t : M.State) :
    M.run (n + 1) s = .next t ↔ ∃ u, M.step s = .next u ∧ M.run n u = .next t := by
  rw [Host.Core.run]
  cases M.step s <;> simp

/-- Settles O13: with no input a step changes nothing. -/
theorem unansweredRequestWaitsForever : Obligations.UnansweredRequestWaitsForever := by
  intro n s r _ hin
  have hstep : step s = .next s := by rw [step, hin]
  induction n with
  | zero => rfl
  | succ n ih => exact (run_succ_eq_next_iff core n s s).2 ⟨s, hstep, ih⟩

/-- A step of a SPENT session whose input does not renew it changes no register and makes no request (R170). -/
theorem step_keeps_spent {s t : State} (hs : s.slot.sessionState = .spent) (hin : ∀ a ∈ s.inputs, a.KeepsSession)
    (h : step s = .next t) :
    t.slot = s.slot ∧ t.requests = s.requests ∧ ∀ a ∈ t.inputs, a.KeepsSession := by
  have hrest : ∀ a ∈ s.inputs.drop 1, a.KeepsSession := fun a ha => hin a (List.mem_of_mem_drop ha)
  rcases step_cases h with ⟨p, -, rfl⟩ | ⟨hreset, -⟩ | ⟨-, e, -, rfl⟩ | ⟨-, f, i, hf, hdecode, hexec⟩
  · exact ⟨rfl, rfl, hrest⟩
  · exact (hin _ (List.mem_of_mem_head? hreset)).elim
  · exact ⟨rfl, rfl, hrest⟩
  · have hkeeps : i.RenewsSession = false := hin _ (List.mem_of_mem_head? hf) i hdecode
    have answers {r : ByteString} (ht : t = State.respond { s with inputs := s.inputs.drop 1 } r) :
        t.slot = s.slot ∧ t.requests = s.requests ∧ ∀ a ∈ t.inputs, a.KeepsSession := by
      rw [ht]; exact ⟨rfl, rfl, hrest⟩
    have inUse {a b : ByteString} (hi : i = .encrypt a b ∨ i = .decrypt a b) :=
      answers (exec_use_refused hi (refusesUse_of_spent hs) hexec)
    by_cases hd : i.Datapath = true
    · obtain ⟨p, hp⟩ := exec_of_datapath hd
      exact answers (Host.Outcome.next.inj (hexec.symm.trans (hp _)))
    cases i with
    | sessionNew | sessionClear => cases hkeeps
    | encrypt aad pt => exact inUse (.inl rfl)
    | decrypt aad x => exact inUse (.inr rfl)
    | _ => exact absurd rfl hd

/-- A run of a SPENT session that nothing renews changes no register and makes no request. -/
theorem run_keeps_spent {n : Nat} {s t : State} (hs : s.slot.sessionState = .spent)
    (hin : ∀ a ∈ s.inputs, a.KeepsSession) (h : core.run n s = .next t) :
    t.slot = s.slot ∧ t.requests = s.requests := by
  induction n generalizing s with
  | zero => cases h; exact ⟨rfl, rfl⟩
  | succ n ih =>
    obtain ⟨u, hstep, hrun⟩ := (run_succ_eq_next_iff core n s t).1 h
    obtain ⟨hslot, hreq, hin'⟩ := step_keeps_spent hs hin hstep
    obtain ⟨hslot', hreq'⟩ := ih (by rwa [hslot]) hin' hrun
    exact ⟨hslot'.trans hslot, hreq'.trans hreq⟩

/-- Settles O50: the session is still SPENT after the run, and so refused. -/
theorem spentSessionStaysSpent : Obligations.SpentSessionStaysSpent := by
  intro n s t hs hin h
  obtain ⟨hslot, hreq⟩ := run_keeps_spent hs hin h
  have hrefused := refusesUse_of_spent (hslot ▸ hs : t.slot.sessionState = .spent)
  exact ⟨hslot, hreq, fun a b =>
    ⟨exec_use_of_refused (.inl rfl) hrefused, exec_use_of_refused (.inr rfl) hrefused⟩⟩

end Sys2Proof.Machine
end

section
/-! PROOFS. What a session's tag authenticates (spec/42_gcm_engine.md R167, R172, R175): the round trip, and which
inputs DECRYPT opens. -/

namespace Sys2Proof.Machine

/-! The session SESSION_NEW opens. -/

/-- The state after SESSION_NEW with legal operands and its request answered (R165). -/
def State.withSession (s : State) (key nonce : ByteString) (tagSize : Byte) : State :=
  (((s.scrub.issue key (zeros 16)).loadKey key tagSize (s.hashKey key)).openSession nonce).respond [0x00]

section WithSession
variable (s : State) {key : ByteString} (nonce : ByteString) (tagSize : Byte)

theorem withSession_drawAt (i : Nat) : (s.withSession key nonce tagSize).drawAt i = s.drawAt (i + 1) :=
  issue_drawAt s.scrub key (zeros 16) i

theorem withSession_ready (hkey : key.length ∈ keyLengths) : (s.withSession key nonce tagSize).Ready where
  valid := rfl
  unused := rfl
  keylen := by
    change (BitVec.ofNat 6 key.length).toNat ∈ keyLengths
    rwa [toNat_keylen hkey]
  ctr := rfl

end WithSession

/-- The same key and nonce on the same CIPHER open the same session. -/
theorem withSession_slot_congr {s t : State} (h : t.points = s.points) (key nonce : ByteString) (tagSize : Byte) :
    (t.withSession key nonce tagSize).slot = (s.withSession key nonce tagSize).slot := by
  have hhash : t.hashKey key = s.hashKey key := cipher_congr h _ _
  rw [State.withSession, State.withSession, hhash]; rfl

/-! A session opens what it would seal. -/

/-- The output is a function of the slot and of CIPHER. -/
theorem sealed_congr {s t : State} (hslot : t.slot = s.slot) (hpoints : t.points = s.points) (aad pt : ByteString) :
    t.sealed aad pt = s.sealed aad pt := by
  have hcipher : t.cipher = s.cipher := funext₂ fun k b => cipher_congr hpoints k b
  have hencipher : t.encipher = s.encipher := by unfold State.encipher; rw [hcipher]
  simp only [State.sealed, State.tagFor, State.hashKey, hslot, hcipher, hencipher]

/-- With tag size 16 DECRYPT finds the tag behind the ciphertext, and its keystream cancels ENCRYPT's (R172). -/
theorem exec_decrypt_sealed {s : State} (hs : s.Ready) (htagsize : s.slot.tagsize.toNat = 16) (aad : ByteString)
    {pt : ByteString} (h : s.AllAnswered (2 + blockCount pt)) :
    exec (.decrypt aad (s.sealed aad pt)) s =
      .next ((s.spend.afterRequests (2 + blockCount pt)).respond (okResponse (.str pt))) := by
  rw [State.sealed]
  generalize hc : counterMode (s.encipher s.slot.sessionKey) s.slot.j0 pt = c
  have htagLen : (s.tagFor aad c).length = 16 := by simp [State.tagFor, htagsize]
  have htext : textPart (c ++ s.tagFor aad c) = c := textPart_append htagLen
  have hmatch : s.TagMatches aad (c ++ s.tagFor aad c) := by
    rw [State.TagMatches, htext, trailerPart_append htagLen, htagsize, List.take_of_length_le htagLen.le]
  have hblocks : blockCount c = blockCount pt := by rw [← hc, blockCount, counterMode_length]; rfl
  have hplain : counterMode (s.encipher s.slot.sessionKey) s.slot.j0 c = pt := by rw [← hc, counterMode_counterMode]
  rw [exec_decrypt_opened hs aad (by simp [htagLen]) hmatch (by rwa [htext, hblocks]), htext, hblocks, hplain]

/-- Settles O52: the two sessions have one slot, so the second opens what the first sealed. -/
theorem decryptUndoesEncrypt : Obligations.DecryptUndoesEncrypt := by
  intro key nonce aad pt s t hkey _ hpoints hs ht
  have opened {s : State} (h : s.AllAnswered (3 + blockCount pt)) :
      exec (.sessionNew key nonce 16) s = .next (s.withSession key nonce 16) :=
    exec_sessionNew_answered (by decide) hkey (h 0 (by omega))
  have answered {s : State} (h : s.AllAnswered (3 + blockCount pt)) :
      (s.withSession key nonce 16).AllAnswered (2 + blockCount pt) :=
    fun i hi => (withSession_drawAt s nonce 16 i).trans (h (i + 1) (by omega))
  have hslot := withSession_slot_congr hpoints key nonce 16
  have hdecrypt := exec_decrypt_sealed (withSession_ready t nonce 16 hkey) rfl aad (answered ht)
  rw [sealed_congr hslot hpoints] at hdecrypt
  exact ⟨_, _, _, _, _, opened hs, exec_encrypt_answered (withSession_ready s nonce 16 hkey) aad (answered hs), rfl,
    opened ht, hdecrypt, rfl⟩

/-! Which inputs DECRYPT opens. -/

/-- A part of a command that is done had its first part done. -/
theorem bind_eq_done_iff {α β : Type} {c : Call α} {f : α → State → Call β} {b : β} {u : State} :
    c.bind f = .done b u ↔ ∃ a v, c = .done a v ∧ f a v = .done b u := by
  cases c <;> simp [Call.bind]

/-- An answered request gives CIPHER's value (R160). -/
theorem eq_of_callE_eq_done {k b : ByteString} {s u : State} {out : Wide} (h : callE k b s = .done out u) :
    out = s.cipher k b ∧ u = s.issue k b := by
  unfold callE at h
  split at h
  · cases h
  · split at h
    · cases h
    · split at h <;> cases h
      exact ⟨rfl, rfl⟩

theorem eq_of_hashKeyAndMask_eq_done {k : ByteString} {s u : State} {hm : Wide × Wide}
    (h : hashKeyAndMask k s = .done hm u) : hm = (s.hashKey k, s.encipher k s.slot.j0) ∧ u.slot = s.slot := by
  obtain ⟨hash, v, hhash, h⟩ := bind_eq_done_iff.1 h
  obtain ⟨mask, w, hmask, h⟩ := bind_eq_done_iff.1 h
  obtain ⟨rfl, rfl⟩ := eq_of_callE_eq_done hhash
  obtain ⟨rfl, rfl⟩ := eq_of_callE_eq_done hmask
  cases h
  exact ⟨rfl, rfl⟩

/-- DECRYPT's body is done only with a matching tag, whatever state it started in (R167, R175). -/
theorem tagMatches_of_decryptBody_eq_done {aad x : ByteString} {s u : State} {p : Payload}
    (h : decryptBody aad x s = .done p u) : 16 ≤ x.length ∧ s.TagMatches aad x := by
  unfold decryptBody at h
  split at h
  · cases h
  next hx =>
    obtain ⟨hm, v, hmask, h⟩ := bind_eq_done_iff.1 h
    obtain ⟨rfl, hslot⟩ := eq_of_hashKeyAndMask_eq_done hmask
    unfold openText at h
    split at h
    next htag =>
      rw [hslot] at htag
      exact ⟨Nat.le_of_not_lt hx, (timingSafeEqual_iff _ _).1 htag⟩
    · cases h

/-- Settles O53: OK is the body's end; the errors are the refusals, the tag check's and the cipher agent's. -/
theorem decryptOpensOnlyAMatchingTag : Obligations.DecryptOpensOnlyAMatchingTag := by
  intro aad x r s t h hresp
  by_cases hready : s.slot.valid = true ∧ s.slot.used = false
  swap
  · obtain ⟨e, hr, he⟩ := refusesUse_of_not_ready hready
    cases exec_use_refused (.inr rfl) hr h
    obtain rfl : errorResponse e = r := by simpa using hresp
    refine ⟨fun hok => absurd hok (errorResponse_ne_ok e), fun _ => ?_⟩
    rcases he with rfl | rfl
    · exact .inr (.inr (.inl rfl))
    · exact .inl rfl
  have hstate := (sessionState_eq_ready_iff s.slot).2 hready
  rw [exec_decrypt_of_accepted ((refusesUse_eq_none_iff _).2 hstate)] at h
  have hfrom := decryptBody_from aad x s.spend
  cases hbody : decryptBody aad x s.spend with
  | done p u =>
    rw [hbody] at h hfrom
    cases h
    obtain rfl : okResponse p = r := by simpa [hfrom.1.responses] using hresp
    exact ⟨fun _ => ⟨hstate, tagMatches_of_decryptBody_eq_done (s := s.spend) hbody⟩, fun hok => absurd rfl hok⟩
  | raised e u =>
    rw [hbody] at h hfrom
    cases h
    obtain ⟨hu, -, he⟩ := hfrom
    obtain rfl : errorResponse e = r := by simpa [hu.responses] using hresp
    refine ⟨fun hok => absurd hok (errorResponse_ne_ok e), fun _ => ?_⟩
    rcases he with ⟨code, rfl⟩ | rfl
    · exact .inr (.inr (.inr ⟨code, rfl⟩))
    · exact .inr (.inl rfl)
  | waits u =>
    rw [hbody] at h hfrom
    cases h
    exact absurd hresp (by simp [hfrom.1.responses])
  | broken f => rw [hbody] at h; cases h

/-- DECRYPT depends on the length of its input, its text and the first TAGSIZE bytes of its trailer (R172). -/
theorem decryptBody_congr {aad x y : ByteString} {s : State} (hlen : x.length = y.length)
    (htext : textPart x = textPart y)
    (htag : (trailerPart x).take s.slot.tagsize.toNat = (trailerPart y).take s.slot.tagsize.toNat) :
    decryptBody aad x s = decryptBody aad y s := by
  unfold decryptBody
  rw [hlen]
  split
  · rfl
  cases hmask : hashKeyAndMask s.slot.sessionKey s with
  | done hm u =>
    obtain ⟨-, hslot⟩ := eq_of_hashKeyAndMask_eq_done hmask
    unfold textPart trailerPart at *
    rw [hlen] at htext htag
    simp only [bind_done, openText, hslot, htext, htag]
  | raised e u => simp only [bind_raised]
  | waits u => simp only [bind_waits]
  | broken f => simp only [bind_broken]

/-- Settles O54: the two inputs agree in all that DECRYPT depends on. -/
theorem decryptIgnoresTheEndOfTheTrailer : Obligations.DecryptIgnoresTheEndOfTheTrailer := by
  intro aad x tag tail1 tail2 s htagsize hlen htails
  have trailer {tail : ByteString} (h : tail.length = tail1.length) : (tag ++ tail).length = 16 := by simp [h, hlen]
  have text {tail : ByteString} (h : tail.length = tail1.length) : textPart (x ++ tag ++ tail) = x := by
    rw [List.append_assoc, textPart_append (trailer h)]
  have checked {tail : ByteString} (h : tail.length = tail1.length) :
      (trailerPart (x ++ tag ++ tail)).take s.slot.tagsize.toNat = tag := by
    rw [List.append_assoc, trailerPart_append (trailer h), List.take_left' htagsize]
  have hbody : decryptBody aad (x ++ tag ++ tail1) s.spend = decryptBody aad (x ++ tag ++ tail2) s.spend :=
    decryptBody_congr (by simp [htails]) ((text rfl).trans (text htails).symm)
      ((checked rfl).trans (checked htails).symm)
  simp only [exec, execDecrypt, hbody]

end Sys2Proof.Machine
end

section
/-! PROOFS. J0 and the counter's width (spec/42_gcm_engine.md R162, R173). -/

namespace Sys2Proof.Machine

/-- Settles O35: a 12-byte nonce with the counter is one block; any other nonce is hashed with no associated data, and
the empty one's zero block adds nothing to 0. -/
theorem deriveJ0FollowsItsRule : Obligations.DeriveJ0FollowsItsRule := by
  obtain ⟨-, -, hempty⟩ := ghashOfEmptyInputs
  refine ⟨fun h nonce hlen => ?standard, fun h nonce hlen => ?hashed, fun h => ?empty⟩
  case standard =>
    have hblock : (nonce ++ [0x00, 0x00, 0x00, 0x01]).length = 16 := by simp [hlen]
    rw [deriveJ0, if_pos hlen]
    refine ⟨be16_val _ hblock, ?_⟩
    rw [toNat_val hblock.le, beVal_append]
    simp
  case hashed =>
    have hfold : foldBlocks h 0 (pad16 nonce) = foldBlocks h 0 (if nonce = [] then [] else pad16 nonce) := by
      split
      next hnil => rw [hnil, foldBlocks_pad16_nil, zero_gfMul]; rfl
      next => rfl
    have hlengths : lenBlock [] nonce = BitVec.ofNat 128 (8 * nonce.length) := by simp [lenBlock]
    rw [deriveJ0, if_neg hlen, ghash_empty_aad, hfold, hlengths]
    exact ⟨rfl, rfl⟩
  case empty => rw [deriveJ0, if_neg (by decide), hempty]

/-- i increments reach counter block i (R163). -/
theorem repeat_inc (i : Nat) (c : Wide) : Nat.repeat inc i c = counterBlock c i := by
  induction i with
  | zero => exact (counterBlock_zero c).symm
  | succ i ih => rw [counterBlock_succ, ← ih]; rfl

/-- The 32-bit increment: the high 96 bits stay, the low 32 wrap (R173). -/
theorem toNat_thirtyTwoBitSum (c : Wide) (i : Nat) :
    (c.extractLsb' 32 96 ++ (c.extractLsb' 0 32 + BitVec.ofNat 32 i)).toNat =
      c.toNat / 2 ^ 32 * 2 ^ 32 + (c.toNat + i) % 2 ^ 32 := by
  have hlow : (c.toNat + i) % 2 ^ 32 < 2 ^ 32 := Nat.mod_lt _ (by decide)
  rw [BitVec.toNat_append, BitVec.toNat_add, BitVec.extractLsb'_toNat, BitVec.extractLsb'_toNat, BitVec.toNat_ofNat,
    Nat.shiftRight_zero, Nat.add_mod_mod, Nat.mod_add_mod, ← Nat.shiftLeft_add_eq_or_of_lt hlow, Nat.shiftLeft_eq,
    Nat.shiftRight_eq_div_pow, Nat.mod_eq_of_lt (by have := c.isLt; omega)]

/-- Settles O55: a sum below 2^32 carries nothing into the high 96 bits; the first increment after 2^32 − 1 does. -/
theorem counterAgreesWithTheThirtyTwoBitIncrement : Obligations.CounterAgreesWithTheThirtyTwoBitIncrement := by
  refine ⟨fun j0 i hi => ⟨BitVec.eq_of_toNat_eq ?_, repeat_inc i j0⟩, fun j0 hj0 heq => ?_⟩
  · have := j0.isLt
    rw [toNat_thirtyTwoBitSum, counterBlock, BitVec.toNat_add, BitVec.toNat_ofNat]
    omega
  · have hvalue := congrArg BitVec.toNat heq
    have := j0.isLt
    rw [toNat_thirtyTwoBitSum, toNat_inc] at hvalue
    omega

end Sys2Proof.Machine
end

section
/-! PROOFS. The comparator and TS_EQUAL (spec/43_compare.md R200, R202), from `timingSafeEqual_iff`. -/

namespace Sys2Proof.Machine

theorem timingSafeEqual_of_ne {a b : ByteString} (h : a ≠ b) : timingSafeEqual a b = false :=
  Bool.eq_false_iff.2 (mt (timingSafeEqual_iff a b).1 h)

/-- Settles O33: strings of different lengths are different strings. -/
theorem timingSafeEqualIsEquality : Obligations.TimingSafeEqualIsEquality :=
  ⟨timingSafeEqual_iff, fun _ _ hlen => timingSafeEqual_of_ne (ne_of_apply_ne List.length hlen)⟩

theorem exec_tsEqual_of_eq {a b : ByteString} (h : a = b) (s : State) :
    exec (.tsEqual a b) s = .next { s with responses := s.responses ++ [[0x00, 0x01]] } := by
  rw [exec, execTsEqual, (timingSafeEqual_iff a b).2 h]; rfl

theorem exec_tsEqual_of_ne {a b : ByteString} (h : a ≠ b) (s : State) :
    exec (.tsEqual a b) s = .next { s with responses := s.responses ++ [[0x00, 0x00]] } := by
  rw [exec, execTsEqual, timingSafeEqual_of_ne h]; rfl

/-- Settles O34: opcode 0x30 is in the map, so none of its frames is illegal and those that are no encoding are
malformed; the example's strings differ in their last byte. -/
theorem tsEqualCommand : Obligations.TsEqualCommand := by
  have hop : formatOf 0x30 ≠ none := by decide
  refine ⟨fun a b s => ⟨?frame, fun h => exec_tsEqual_of_eq h s, fun h => exec_tsEqual_of_ne h s⟩,
    fun f => decode_eq_malformed_of_no_encoding hop, fun f => ?neverIllegal, exec_tsEqual_of_ne (by decide)⟩
  case frame => exact congrArg (0x30 :: ·) (operandBytes_str_str a b)
  case neverIllegal => exact mt (decode_eq_illegal_iff 0x30 f).1 hop

end Sys2Proof.Machine
end

section
/-! PROOFS. Where a run stops and what the session's secrets reach (spec/60_exceptions.md R212, R219,
spec/70_reset_and_hazards.md R222, R243, R249). -/

namespace Sys2Proof.Machine

/-! Frames to a core that is not idle. -/

theorem receiveFrame_of_waiting {s : State} {r : Request} (f : ByteString) (h : s.phase = .waiting r) :
    receiveFrame f s = .refused .frameWhileBusy := by
  simp only [receiveFrame, h]

theorem receiveFrame_of_resetting {s : State} (f : ByteString) (h : s.phase = .resetting) :
    receiveFrame f s = .refused .frameBeforeResetDone := by
  simp only [receiveFrame, h]

/-- Settles O9: the frame is received in the phase the core is in. -/
theorem frameIsRefusedUnlessIdle : Obligations.FrameIsRefusedUnlessIdle := by
  intro s f rest hin
  rw [step_of_frame hin]
  exact ⟨fun _ hwaiting => receiveFrame_of_waiting f hwaiting, fun hreset => receiveFrame_of_resetting f hreset⟩

/-! No command faults on a session that meets the invariants. -/

/-- A command whose request was failed or left unanswered still has a next state (R160, R249). -/
theorem finish_stopped_answers (d : Draw) (r : Request) (u : State) :
    ∃ t, (Call.stopped d r u).finish = .next t := by
  cases d <;> exact ⟨_, rfl⟩

section Ready
variable {s : State} (hs : s.Ready)
include hs

theorem exec_encrypt_answers (aad pt : ByteString) : ∃ t, exec (.encrypt aad pt) s = .next t := by
  rcases allAnswered_or_first_unanswered s (2 + blockCount pt) with hall | ⟨m, hm, hbefore, hd⟩
  · exact ⟨_, exec_encrypt_answered hs aad hall⟩
  · rw [exec_encrypt_stopped hs aad hm hbefore hd]
    exact finish_stopped_answers _ _ _

theorem exec_decrypt_answers (aad x : ByteString) : ∃ t, exec (.decrypt aad x) s = .next t := by
  rcases Nat.lt_or_ge x.length 16 with hx | hx
  · exact ⟨_, exec_decrypt_short hs.refusesUse_eq_none aad hx⟩
  have stopped {m : Nat} (hm : m < 2 ∨ (m < 2 + blockCount (textPart x) ∧ s.TagMatches aad x))
      (hbefore : s.AllAnswered m) (hd : s.drawAt m ≠ .answered) : ∃ t, exec (.decrypt aad x) s = .next t := by
    rw [exec_decrypt_stopped hs aad hx hm hbefore hd]
    exact finish_stopped_answers _ _ _
  by_cases htag : s.TagMatches aad x
  · rcases allAnswered_or_first_unanswered s (2 + blockCount (textPart x)) with hall | ⟨m, hm, hbefore, hd⟩
    · exact ⟨_, exec_decrypt_opened hs aad hx htag hall⟩
    · exact stopped (.inr ⟨hm, htag⟩) hbefore hd
  · rcases allAnswered_or_first_unanswered s 2 with hall | ⟨m, hm, hbefore, hd⟩
    · exact ⟨_, exec_decrypt_mismatch hs aad hx htag hall⟩
    · exact stopped (.inl hm) hbefore hd

end Ready

/-- SESSION_NEW makes no request outside the contract of CALL_E, whatever its operands and the state (R165). -/
theorem exec_sessionNew_answers (key nonce : ByteString) (tagSize : Byte) (s : State) :
    ∃ t, exec (.sessionNew key nonce tagSize) s = .next t := by
  by_cases htag : tagSize.toNat ∈ tagSizes
  swap
  · exact ⟨_, exec_sessionNew_tagSize key nonce s htag⟩
  by_cases hkey : key.length ∈ keyLengths
  swap
  · exact ⟨_, exec_sessionNew_keySize nonce s htag hkey⟩
  by_cases hd : s.drawAt 0 = .answered
  · exact ⟨_, exec_sessionNew_answered htag hkey hd⟩
  · rw [exec_sessionNew_stopped nonce htag hkey hd]
    exact finish_stopped_answers _ _ _

/-- Every command has a next state from a session that meets the invariants (R212). -/
theorem exec_answers {s : State} (hs : s.SessionInv) (i : Instr) : ∃ t, exec i s = .next t := by
  have inUse {a b : ByteString} (hi : i = .encrypt a b ∨ i = .decrypt a b) : ∃ t, exec i s = .next t := by
    by_cases hflags : s.slot.valid = true ∧ s.slot.used = false
    · have hready : s.Ready := hs.ready hflags.1 hflags.2
      rcases hi with rfl | rfl
      · exact exec_encrypt_answers hready a b
      · exact exec_decrypt_answers hready a b
    · obtain ⟨e, hr, -⟩ := refusesUse_of_not_ready hflags
      exact ⟨_, exec_use_of_refused hi hr⟩
  by_cases hdatapath : i.Datapath = true
  · obtain ⟨p, hp⟩ := exec_of_datapath hdatapath
    exact ⟨_, hp s⟩
  cases i with
  | sessionNew key nonce tagSize => exact exec_sessionNew_answers key nonce tagSize s
  | encrypt aad pt => exact inUse (.inl rfl)
  | decrypt aad x => exact inUse (.inr rfl)
  | sessionClear => exact ⟨_, exec_sessionClear s⟩
  | _ => exact absurd rfl hdatapath

/-- An accepted frame has a next state, whatever it decodes to. -/
theorem acceptFrame_answers {s : State} (hs : s.SessionInv) (f : ByteString) : ∃ t, acceptFrame f s = .next t := by
  unfold acceptFrame
  split
  · exact exec_answers hs _
  · exact ⟨_, rfl⟩
  · exact ⟨_, rfl⟩

/-- T_RESET passing has a next state in every phase. -/
theorem resetDone_answers (s : State) : ∃ t, resetDone s = .next t := by
  unfold resetDone
  split <;> exact ⟨_, rfl⟩

/-- Settles O48: only a frame can stop a step, and an idle core answers every frame. -/
theorem stepStopsOnlyOnAHostDuty : Obligations.StepStopsOnlyOnAHostDuty := by
  intro s hs
  cases hin : s.inputs with
  | nil => exact .inl ⟨s, by rw [step, hin]⟩
  | cons a rest =>
    cases a with
    | frame f =>
      obtain ⟨hbusy, hreset⟩ := frameIsRefusedUnlessIdle s f rest hin
      cases hphase : s.phase with
      | idle =>
        have htaken : State.SessionInv { s with inputs := rest } := hs.congr rfl rfl
        rw [step_of_frame hin, receiveFrame_of_idle (s := { s with inputs := rest }) f hphase]
        exact .inl (acceptFrame_answers htaken f)
      | waiting r => exact .inr ⟨Phase.noConfusion, ⟨f, rest, rfl⟩, .inl (hbusy r hphase)⟩
      | resetting => exact .inr ⟨Phase.noConfusion, ⟨f, rest, rfl⟩, .inr (hreset hphase)⟩
    | reset => exact .inl ⟨_, by rw [step, hin]; rfl⟩
    | resetDone => rw [step, hin]; exact .inl (resetDone_answers _)
    | lateAnswer a => exact .inl ⟨_, by rw [step, hin]; rfl⟩

/-! What the session's secrets reach. -/

/-- Two states that differ in the slot alone, and refuse ENCRYPT and DECRYPT alike, go to states that differ in the slot
alone, by every command but an accepted ENCRYPT or DECRYPT (R109, R219). The scrub blots out the slot. -/
theorem exec_scrub_congr {i : Instr} {s t s' t' : State} (hscrub : s.scrub = t.scrub)
    (hrefuses : s.slot.refusesUse = t.slot.refusesUse)
    (huse : ∀ a b, (i = .encrypt a b ∨ i = .decrypt a b) → s.slot.refusesUse ≠ none)
    (h : exec i s = .next s') (h' : exec i t = .next t') : s'.scrub = t'.scrub := by
  have respondAlike {r : ByteString} (hs : exec i s = .next (s.respond r)) (ht : exec i t = .next (t.respond r)) :
      s'.scrub = t'.scrub := by
    cases hs.symm.trans h
    cases ht.symm.trans h'
    exact congrArg (State.respond · r) hscrub
  have inUse {a b : ByteString} (hi : i = .encrypt a b ∨ i = .decrypt a b) : s'.scrub = t'.scrub := by
    obtain ⟨e, he⟩ := Option.ne_none_iff_exists'.1 (huse a b hi)
    exact respondAlike (exec_use_of_refused hi he) (exec_use_of_refused hi (hrefuses.symm.trans he))
  by_cases hdatapath : i.Datapath = true
  · obtain ⟨p, hp⟩ := exec_of_datapath hdatapath
    exact respondAlike (hp s) (hp t)
  cases i with
  | sessionNew key nonce tagSize =>
    have hsame : exec (.sessionNew key nonce tagSize) s = exec (.sessionNew key nonce tagSize) t :=
      congrArg (fun u => (sessionNewBody key nonce tagSize u).finish) hscrub
    cases h.symm.trans (hsame.trans h')
    rfl
  | encrypt aad pt => exact inUse (.inl rfl)
  | decrypt aad x => exact inUse (.inr rfl)
  | sessionClear =>
    cases (exec_sessionClear s).symm.trans h
    cases (exec_sessionClear t).symm.trans h'
    rw [hscrub]
  | _ => exact absurd rfl hdatapath

/-- Settles O56: the secrets lie in the slot, and whether ENCRYPT and DECRYPT are refused rests on VALID and USED. -/
theorem secretsReachNoOtherResponse : Obligations.SecretsReachNoOtherResponse := by
  intro i s t s' t' ht huse h h'
  have hscrub : t.scrub = s.scrub := (congrArg State.scrub ht).trans rfl
  have hrefuses : t.slot.refusesUse = s.slot.refusesUse := (congrArg (·.slot.refusesUse) ht).trans rfl
  have hend : s'.scrub = t'.scrub := exec_scrub_congr hscrub.symm hrefuses.symm
    (fun a b hi => mt (refusesUse_eq_none_iff s.slot).1 (huse a b hi)) h h'
  change s'.scrub.responses = t'.scrub.responses ∧ s'.scrub.requests = t'.scrub.requests ∧
    s'.scrub.phase = t'.scrub.phase
  rw [hend]
  exact ⟨rfl, rfl, rfl⟩

/-- A SPENT session with a secret of the caller's choice in KEY, HSUB, J0 and CTR each. -/
def spentWith (secret : Wide) : State :=
  { State.reset with slot :=
      { valid := true, used := true, keylen := 16, key := secret.setWidth 256, tagsize := 16,
        hsub := secret, j0 := secret, ctr := secret } }

/-- Two states that differ in the secrets meet the premises of the noninterference statement, so that one ENCRYPT has one response for both. -/
theorem spentWith_encrypt_alike : spentWith 1 ≠ spentWith 2 ∧
    ∃ s' t', exec (.encrypt [] []) (spentWith 1) = .next s' ∧ exec (.encrypt [] []) (spentWith 2) = .next t' ∧
      s'.responses = t'.responses ∧ s'.requests = t'.requests ∧ s'.phase = t'.phase :=
  ⟨by decide, _, _, rfl, rfl,
    secretsReachNoOtherResponse (.encrypt [] []) (spentWith 1) (spentWith 2) _ _ rfl (fun _ _ _ => by decide) rfl rfl⟩

end Sys2Proof.Machine
end

section
/-! PROOFS. What a step does with a reset, with the end of T_RESET and with a late answer (spec/70_reset_and_hazards.md R240 to
R242). -/

namespace Sys2Proof.Machine

/-- A step with a reset at hand resets the core, whatever its phase (R240). -/
theorem step_of_reset {s : State} {rest : List Input} (h : s.inputs = .reset :: rest) :
    step s = .next (State.applyReset { s with inputs := rest }) := by
  simp only [step, h, receive]

/-- A step with a late answer at hand consumes it and does nothing else (R240). -/
theorem step_of_lateAnswer {s : State} {a : Answer} {rest : List Input} (h : s.inputs = .lateAnswer a :: rest) :
    step s = .next { s with inputs := rest } := by
  simp only [step, h, receive]

/-- The end of T_RESET makes the resetting core idle and does nothing else (R241, R242). -/
theorem step_of_resetDone {s : State} {rest : List Input} (h : s.inputs = .resetDone :: rest)
    (hphase : s.phase = .resetting) : step s = .next { s with phase := .idle, inputs := rest } := by
  simp only [step, h, receive, resetDone, hphase]

/-- A waiting core that takes no reset consumes the input at hand, if there is one, and waits on (R240, R249). -/
theorem step_waiting_eq {s t : State} {r : Request} (hwaiting : s.phase = .waiting r) (h : step s = .next t)
    (hreset : s.inputs.head? ≠ some .reset) : t = { s with inputs := s.inputs.drop 1 } := by
  rcases step_cases h with ⟨p, rfl | ⟨hresetting, -⟩, rfl⟩ | ⟨hhead, -⟩ | ⟨hidle, -⟩ | ⟨hidle, -⟩
  · rfl
  · cases hwaiting.symm.trans hresetting
  · exact absurd hhead hreset
  · cases hwaiting.symm.trans hidle
  · cases hwaiting.symm.trans hidle

/-- Settles O11: each clause is what a step does with one input. -/
theorem resetFollowsItsRule : Obligations.ResetFollowsItsRule :=
  ⟨fun _ _ hin => step_of_reset hin, fun _ _ _ hin => step_of_lateAnswer hin,
    fun _ _ _ hwaiting h hreset => step_waiting_eq hwaiting h hreset⟩

/-- Settles O12: the reset, the end of T_RESET and the frame are one step each, and the second leaves the core idle. -/
theorem firstFrameAfterReset : Obligations.FirstFrameAfterReset := by
  intro s f i rest hin hf
  have hreset := step_of_reset hin
  have hdone := step_of_resetDone (s := State.applyReset { s with inputs := .resetDone :: .frame f :: rest }) rfl rfl
  exact ⟨_, _, hreset, hdone, rfl, rfl, rfl, stepRunsTheDecodedCommand _ f rest i rfl rfl hf⟩

end Sys2Proof.Machine
end
